-- ==== Sys2Proof/Word.lean ====
section
/-! DEFINITION. The widths the spec fixes: one buffer element, the key, the command word
(00_scope.md R7: `ELEM_BITS` = 8, `KEY_BITS` = 8, `CMD_BITS` = 16). -/

namespace Sys2Proof

/-- One element of a buffer, an unsigned byte (00_scope.md R7, 20_memory.md R41). -/
abbrev Elem := BitVec 8

/-- The key of the modular-arithmetic unit (10_state.md R17). -/
abbrev Key := BitVec 8

/-- One command word, what the host writes to `CMD` (30_encoding.md R60). -/
abbrev CmdWord := BitVec 16

end Sys2Proof
end

