-- ==== Sys2Proof/Syntax.lean ====
section
/-! DEFINITION. The twelve commands of 30_encoding.md R65 (spec/opcode_table.json), one constructor
per row. -/

namespace Sys2Proof

/-- The PXU command set 1.0. Every constructor carries the `KEY` byte of its word (30_encoding.md
R61), also where the command ignores it (10_state.md R17: `COPY`, `PERM.*`; 43_inverse_transform.md
R134: `IXF.MUL`): `CMD` keeps the word as written, so no bit of it may be lost in decoding. -/
inductive Instr where
  /-- `COPY` (R90): copy the buffer unchanged. -/
  | copy (key : Key)
  /-- `PERM.RB` (R101): exchange channels 0 and 2. -/
  | permRB (key : Key)
  /-- `PERM.RG` (R102): exchange channels 0 and 1. -/
  | permRG (key : Key)
  /-- `PERM.GB` (R103): exchange channels 1 and 2. -/
  | permGB (key : Key)
  /-- `XF.ADD k` (R113). -/
  | xfAdd (key : Key)
  /-- `XF.SUB k` (R114). -/
  | xfSub (key : Key)
  /-- `XF.XOR k` (R115). -/
  | xfXor (key : Key)
  /-- `XF.MUL k` (R116). -/
  | xfMul (key : Key)
  /-- `IXF.ADD k` (R131). -/
  | ixfAdd (key : Key)
  /-- `IXF.SUB k` (R132). -/
  | ixfSub (key : Key)
  /-- `IXF.XOR k` (R133). -/
  | ixfXor (key : Key)
  /-- `IXF.MUL k` (R134): identity pass with `NotInvertible`. -/
  | ixfMul (key : Key)
  deriving DecidableEq, Repr

end Sys2Proof
end

