-- ==== Sys2Proof/Decode.lean ====
section
/-! DEFINITION. The decoder and the encoder of the format `CMD16` (30_encoding.md R60 to R67). -/

namespace Sys2Proof

/-- `KEY` = `w[15:8]` (30_encoding.md R61). -/
def keyField (w : CmdWord) : Key := w.extractLsb' 8 8

/-- `RSV` = `w[7:4]` (30_encoding.md R61). -/
def rsvField (w : CmdWord) : BitVec 4 := w.extractLsb' 4 4

/-- `UNIT` = `w[3:2]` (30_encoding.md R61, R62). -/
def unitField (w : CmdWord) : BitVec 2 := w.extractLsb' 2 2

/-- `SEL` = `w[1:0]` (30_encoding.md R61, R63). -/
def selField (w : CmdWord) : BitVec 2 := w.extractLsb' 0 2

/-- Why a word is a reserved encoding (30_encoding.md R67). -/
inductive Reserved where
  /-- `RSV` is not 0. -/
  | rsvNotZero
  /-- `UNIT` = 0 with `SEL` ≠ 0, or `UNIT` = 1 with `SEL` = 3. -/
  | noSuchSelector
  deriving DecidableEq, Repr

/-- What a word decodes to: one of the twelve commands, or `RESERVED` (30_encoding.md R66). -/
inductive Decoded where
  | command (i : Instr)
  | reserved (why : Reserved)
  deriving DecidableEq, Repr

/-- `Decode` of 30_encoding.md R66, in the order it tests; the last arm is `RESERVED`. -/
def decode (w : CmdWord) : Decoded :=
  if rsvField w ≠ 0 then .reserved .rsvNotZero
  else
    match (unitField w).toNat, (selField w).toNat with
    | 0, 0 => .command (.copy (keyField w))
    | 1, 0 => .command (.permRB (keyField w))
    | 1, 1 => .command (.permRG (keyField w))
    | 1, 2 => .command (.permGB (keyField w))
    | 2, 0 => .command (.xfAdd (keyField w))
    | 2, 1 => .command (.xfSub (keyField w))
    | 2, 2 => .command (.xfXor (keyField w))
    | 2, 3 => .command (.xfMul (keyField w))
    | 3, 0 => .command (.ixfAdd (keyField w))
    | 3, 1 => .command (.ixfSub (keyField w))
    | 3, 2 => .command (.ixfXor (keyField w))
    | 3, 3 => .command (.ixfMul (keyField w))
    | _, _ => .reserved .noSuchSelector

/-- The word with the four fields of 30_encoding.md R61, `RSV` = 0. -/
def packWord (key : Key) (unit sel : BitVec 2) : CmdWord := key ++ 0#4 ++ unit ++ sel

/-- The word of a command (30_encoding.md R62, R63, R65). -/
def encode : Instr → CmdWord
  | .copy k => packWord k 0 0
  | .permRB k => packWord k 1 0
  | .permRG k => packWord k 1 1
  | .permGB k => packWord k 1 2
  | .xfAdd k => packWord k 2 0
  | .xfSub k => packWord k 2 1
  | .xfXor k => packWord k 2 2
  | .xfMul k => packWord k 2 3
  | .ixfAdd k => packWord k 3 0
  | .ixfSub k => packWord k 3 1
  | .ixfXor k => packWord k 3 2
  | .ixfMul k => packWord k 3 3

/-- What the decoder reads from a row of spec/opcode_table.json whose bits are `w`. A command is one
16-bit word (30_encoding.md R60), so bits that do not fit one word are no command. -/
def decodeTableWord (nbits w : Nat) : Option Instr :=
  if nbits ≤ 16 ∧ w < 2 ^ nbits then
    match decode (BitVec.ofNat 16 w) with
    | .command i => some i
    | .reserved _ => none
  else none

end Sys2Proof
end

