-- ==== Sys2Proof/Config.lean ====
section
/-! DEFINITION. What an implementation fixes (00_scope.md R7) and the free values of the spec
(93_implementation_defined.md U1). -/

namespace Sys2Proof

/-- The parameters of one PXU (00_scope.md R7, 10_state.md R30). A model "takes them as an
argument": here they stand in `State.params`, which no step changes, so every statement over all
states is a statement over all parameter values. -/
structure Params where
  /-- `DIM_BITS`: width of `HEIGHT` and of `WIDTH`. -/
  dimBits : Nat
  /-- `CH_BITS`: width of `CHANNELS`. -/
  chBits : Nat
  /-- `MAX_ELEMS`: how many elements `SRC` and `DST` hold each. -/
  maxElems : Nat
  /-- `REG_BASE`: bus address of register number 0. -/
  regBase : Nat
  /-- `REG_STRIDE`: distance of two registers on the bus. -/
  regStride : Nat
  deriving DecidableEq, Repr

/-- `IDX_BITS` = 2·`DIM_BITS` + `CH_BITS` (00_scope.md R7). -/
def Params.idxBits (p : Params) : Nat := 2 * p.dimBits + p.chBits

/-- Bus address of register number `n` (10_state.md R22); no rule depends on it. -/
def Params.busAddress (p : Params) (n : Nat) : Nat := p.regBase + n * p.regStride

/-- `MIN_PERM_CHANNELS`, the least channel count at which a swap applies (00_scope.md R7). -/
def minPermChannels : Nat := 3

/-- The spec's default widths (00_scope.md R7). -/
def defaultDimBits : Nat := 16
def defaultChBits : Nat := 8

namespace Config

/-- `MAX_ELEMS` − 1 of the PXU that `State.reset` describes. The spec leaves `MAX_ELEMS` OPEN
between 1 and 2^`IDX_BITS` (00_scope.md R7); this constant has no body, so nothing can rest on a
value of it. -/
opaque capacityLessOne : BitVec 40

/-- `REG_BASE`, OPEN (00_scope.md R7, 10_state.md R22). -/
opaque regBase : Nat

/-- `REG_STRIDE`, OPEN (00_scope.md R7, 10_state.md R22). -/
opaque regStride : Nat

/-- FREE VALUE (93_implementation_defined.md U1, U5): what reading an element that nothing has
written since reset gives. The first argument is the number of the draw (`State.draws`), the second
the offset read, so no two steps of one run are bound to agree. No body: nothing can rest on a value
of it. DESIGN CHOICE, unsafe (log entry 4): the buffer space and the PXU are no arguments, so reads
with equal draw number and offset give the same value, also in two PXUs of one system. -/
opaque freeElem : Nat → Nat → Elem

end Config

/-- The parameters of the PXU that `State.reset` describes: the spec's default widths, and the three
OPEN parameters as constants without a body. DESIGN CHOICE (log entry 1). -/
def Params.initial : Params where
  dimBits := defaultDimBits
  chBits := defaultChBits
  maxElems := Config.capacityLessOne.toNat + 1
  regBase := Config.regBase
  regStride := Config.regStride

end Sys2Proof
end

