-- ==== Sys2Proof/Machine/State.lean ====
section
/-! DEFINITION. The state of one PXU (10_state.md R11) with the host that drives it
(10_state.md R10, R30), the reasons a step can stop, and the state after reset (R32). -/

namespace Sys2Proof.Machine

open Sys2Proof

/-- `STATUS.STATE` (10_state.md R19). The value 3 is never produced, so three values are all there
are (93_implementation_defined.md U8). -/
inductive RunState where
  /-- 0: no command has been started since reset. -/
  | idle
  /-- 1: a command is running. -/
  | busy
  /-- 2: the last command started has finished. -/
  | done
  deriving DecidableEq, Repr

/-- `STATUS.SIGNAL` (10_state.md R20). -/
inductive Signal where
  /-- 0: the command's own operation was applied. -/
  | transformed
  /-- 1: a swap on fewer than 3 channels; identity pass. -/
  | unsupportedFormat
  /-- 2: the inverse of Multiply; identity pass. -/
  | notInvertible
  /-- 3: the word encodes no command; identity pass. -/
  | invalidParameter
  deriving DecidableEq, Repr

/-- The two buffer spaces (20_memory.md R40). -/
inductive Space where
  | src
  | dst
  deriving DecidableEq, Repr

/-- The five registers (10_state.md R22). -/
inductive Reg where
  | cmd
  | height
  | width
  | channels
  | status
  deriving DecidableEq, Repr

/-- In which of the two equal views of 40_iteration_wrapper.md a `CMD` write is shown: as one step
(R81) or as a start, pixel steps and an end step (R80, R84 to R86). DESIGN CHOICE (log entry 3). -/
inductive View where
  | atomic
  | perPixel
  deriving DecidableEq, Repr

/-- One thing the host does (70_reset_and_hazards.md R176, R177; 30_encoding.md R70). -/
inductive HostAction where
  /-- Read register number `n` (10_state.md R22). -/
  | readReg (n : Nat)
  /-- Write `v` to register number `n`; number 0 starts a command (10_state.md R16). -/
  | writeReg (n v : Nat)
  /-- Read one element of a buffer. -/
  | readElem (space : Space) (off : Nat)
  /-- Write one element of a buffer. -/
  | writeElem (space : Space) (off : Nat) (v : Elem)
  /-- `MOVE`: copy `DST[0..N−1]` to `SRC[0..N−1]` (R70, R177). -/
  | move
  /-- Assert the reset (70_reset_and_hazards.md R170). -/
  | reset
  /-- The host does nothing: a running command takes one step. -/
  | wait
  /-- The host waits until `STATE` is not `BUSY` (R173 step 5): a running command takes one step and
  the action stays; otherwise the host goes on. -/
  | awaitDone
  deriving DecidableEq, Repr

/-- What one read gave the host (70_reset_and_hazards.md R174: "whatever the host itself
recorded"). -/
inductive Reading where
  | reg (n v : Nat)
  | elem (space : Space) (off : Nat) (v : Elem)
  deriving DecidableEq, Repr

/-- The elements of one space that something has written since reset, as offset and value, offsets
rising. An offset that is not listed holds no value the model may rely on (10_state.md R32). -/
abbrev Memory := List Host.Cell

/-- Why the machine stops with a fault. -/
inductive Fault where
  /-- Raised by the host's read or write of an element whose offset is at or above `MAX_ELEMS`: no
  such element exists (10_state.md R26, R27; 70_reset_and_hazards.md R176). SAFE: no value is made
  up. No command raises it. -/
  | noSuchElement (space : Space) (off : Nat)
  deriving DecidableEq, Repr

/-- Why a step is refused. -/
inductive Refusal where
  /-- Reserved for an arm of `exec` without a meaning; no arm raises it. SAFE. -/
  | notModelled (mnemonic : String)
  /-- Raised by every command started with `HEIGHT`·`WIDTH`·`CHANNELS` > `MAX_ELEMS`: "no meaning:
  the model refuses it" (20_memory.md R46, 93 U2). SAFE. -/
  | bufferTooLarge
  /-- Raised by a host access other than a `STATUS` read or a reset while `STATE` is `BUSY`
  (70_reset_and_hazards.md R178, 93 U3). SAFE. -/
  | accessWhileBusy
  /-- Raised by a host access to a register number above 4 (10_state.md R22, 93 U4). SAFE. -/
  | noSuchRegister (n : Nat)
  /-- Raised by a register write of a value wider than the register, which "cannot be expressed"
  (10_state.md R22). SAFE. -/
  | valueTooWide (n v : Nat)
  /-- Raised when a system is asked to step a PXU it does not have (60_exceptions.md R156). SAFE. -/
  | noSuchUnit (n : Nat)
  deriving DecidableEq, Repr

/-- The state of one PXU and of the host that drives it. -/
structure State where
  /-- The parameters of this PXU (00_scope.md R7); no step changes them. -/
  params : Params
  /-- The view in which commands are shown; the model's own, no step changes it. -/
  view : View
  /-- `CMD`, register number 0 (10_state.md R16). -/
  cmd : CmdWord
  /-- `HEIGHT`, register number 1, below 2^`DIM_BITS` (10_state.md R13). -/
  height : Nat
  /-- `WIDTH`, register number 2, below 2^`DIM_BITS` (10_state.md R14). -/
  width : Nat
  /-- `CHANNELS`, register number 3, below 2^`CH_BITS` (10_state.md R15). -/
  channels : Nat
  /-- `STATUS.STATE` (10_state.md R19). -/
  state : RunState
  /-- `STATUS.SIGNAL` (10_state.md R20). -/
  signal : Signal
  /-- `IDX_P`, the hidden pixel counter (10_state.md R24). -/
  idxP : Nat
  /-- `SRC` (10_state.md R26). -/
  src : Memory
  /-- `DST` (10_state.md R27). -/
  dst : Memory
  /-- The host's remaining program (70_reset_and_hazards.md R174); the model's own. -/
  host : List HostAction
  /-- What the host has read, newest first (R174); the model's own. -/
  recorded : List Reading
  /-- How many draws of free values have been made; the model's own. -/
  draws : Nat
  deriving DecidableEq, Repr

/-- Right after reset, with no host program (10_state.md R32, 70_reset_and_hazards.md R170): every
register and `IDX_P` 0, no element of `SRC` or `DST` written. -/
def State.reset : State where
  params := Params.initial
  view := .atomic
  cmd := 0
  height := 0
  width := 0
  channels := 0
  state := .idle
  signal := .transformed
  idxP := 0
  src := []
  dst := []
  host := []
  recorded := []
  draws := 0

end Sys2Proof.Machine
end

