-- ==== Sys2Proof/Machine/Ops.lean ====
section
/-! DEFINITION. The named operations over the two buffer spaces and the registers (20_memory.md R44,
10_state.md R22). The PXU has no exception entry and no return from one (60_exceptions.md R147, R148):
what ends a command is in Machine/Command.lean. -/

namespace Sys2Proof.Machine

open Sys2Proof

/-- The element at an offset, if something has written it since reset. -/
def Memory.read : Memory → Nat → Option Elem
  | [], _ => none
  | (b, u) :: rest, a => if a = b then some u else Memory.read rest a

/-- Make the element at an offset equal to `v`, and change nothing else (20_memory.md R44). -/
def Memory.write : Memory → Nat → Elem → Memory
  | [], a, v => [(a, v)]
  | (b, u) :: rest, a, v =>
    if a < b then (a, v) :: (b, u) :: rest
    else if a = b then (a, v) :: rest
    else (b, u) :: Memory.write rest a v

/-- Every listed offset is above `lo`, and the offsets rise. -/
def Memory.risesFrom : Nat → Memory → Bool
  | _, [] => true
  | lo, (b, _) :: rest => decide (lo ≤ b) && Memory.risesFrom (b + 1) rest

/-- The one canonical form: offsets strictly rising. An unlisted offset has no value, so no listed
value has to be left out. -/
def Memory.wf (m : Memory) : Bool := m.risesFrom 0

/-- Write `f 0`, …, `f (n − 1)` to the `n` offsets from `base` on. -/
def Memory.fill (m : Memory) (base : Nat) (f : Nat → Elem) : Nat → Memory
  | 0 => m
  | n + 1 => (Memory.fill m base f n).write (base + n) (f n)

/-- `P` = `HEIGHT` · `WIDTH`, the pixel count, a mathematical integer (00_scope.md R8). -/
def State.pixels (s : State) : Nat := s.height * s.width

/-- `N` = `P` · `C`, the element count (00_scope.md R8). -/
def State.elements (s : State) : Nat := s.pixels * s.channels

/-- A buffer space. -/
def State.buffer (s : State) : Space → Memory
  | .src => s.src
  | .dst => s.dst

/-- Replace a buffer space. -/
def State.setBuffer (s : State) (space : Space) (m : Memory) : State :=
  match space with
  | .src => { s with src := m }
  | .dst => { s with dst := m }

/-- What reading an element gives: what was last written there, or, where nothing has been written
since reset, a free value of this draw (10_state.md R32, 93_implementation_defined.md U1). DESIGN
CHOICE, unsafe (log entry 4): two states with equal `draws`, two PXUs of one system among them, read
the same free value at the same offset, where U1 binds no two reads to agree. -/
def State.elemAt (s : State) (space : Space) (off : Nat) : Elem :=
  ((s.buffer space).read off).getD (Config.freeElem s.draws off)

/-- The next read draws fresh free values. -/
def State.nextDraw (s : State) : State := { s with draws := s.draws + 1 }

/-- The host keeps what it has read. -/
def State.record (s : State) (r : Reading) : State := { s with recorded := r :: s.recorded }

/-- What remains of the host's program. -/
def State.setHost (s : State) (rest : List HostAction) : State := { s with host := rest }

/-- The effect of a reset on a PXU (70_reset_and_hazards.md R170, 10_state.md R32): the registers and
`IDX_P` become 0, every element of both spaces is unspecified, no command is started and a running
one is abandoned. The parameters, and what belongs to the host, stay. -/
def State.clear (s : State) : State :=
  { s with
    cmd := 0
    height := 0
    width := 0
    channels := 0
    state := .idle
    signal := .transformed
    idxP := 0
    src := []
    dst := []
    draws := s.draws + 1 }

/-- The state after the host has copied `DST[0..N−1]` to `SRC[0..N−1]` (30_encoding.md R70,
70_reset_and_hazards.md R177). -/
def State.afterMove (s : State) : State :=
  { s with src := s.src.fill 0 (s.elemAt .dst) s.elements, draws := s.draws + 1 }

/-- The register a number names; numbers 5 and above name none (10_state.md R22). -/
def regOfNumber : Nat → Option Reg
  | 0 => some .cmd
  | 1 => some .height
  | 2 => some .width
  | 3 => some .channels
  | 4 => some .status
  | _ => none

/-- The width of a register (10_state.md R22). -/
def Params.regWidth (p : Params) : Reg → Nat
  | .cmd => 16
  | .height => p.dimBits
  | .width => p.dimBits
  | .channels => p.chBits
  | .status => 8

/-- A write of a parameter register stores exactly the value written (10_state.md R13 to R15); a
write of `STATUS` changes nothing (R18). (A write of `CMD` starts a command: Machine/HostActions.) -/
def State.setParam (s : State) (r : Reg) (v : Nat) : State :=
  match r with
  | .height => { s with height := v }
  | .width => { s with width := v }
  | .channels => { s with channels := v }
  | .cmd => s
  | .status => s

end Sys2Proof.Machine
end

