-- ==== Sys2Proof/Machine/Operands.lean ====
section
/-! DEFINITION. The operands of a command and the per-pixel datapath: the offset of an element
(20_memory.md R42), the lanes of a pixel (40_iteration_wrapper.md R81), the arithmetic
(42_modular_transform.md R112), and `Pix` (40_iteration_wrapper.md R83). -/

namespace Sys2Proof.Machine

open Sys2Proof

/-- What the wrapper does to each pixel (40_iteration_wrapper.md R82). -/
inductive Mode where
  | id
  | swap (a b : Nat)
  | add
  | sub
  | xor
  | mul
  deriving DecidableEq, Repr

/-- The offset of channel `c` of pixel `p`: `p·C + c` (20_memory.md R42, 40_iteration_wrapper.md
R92). -/
def pixelOffset (channels p c : Nat) : Nat := p * channels + c

/-- The offset of row `y`, column `x`, channel `c`: `(y·WIDTH + x)·C + c` (20_memory.md R42). -/
def elementOffset (width channels y x c : Nat) : Nat := pixelOffset channels (y * width + x) c

/-- `a mod 256` of a mathematical integer, the residue not negative (00_scope.md R8). -/
def reduce256 (a : Int) : Elem := BitVec.ofInt 8 a

/-- `(v + k) mod 256` (42_modular_transform.md R113). -/
def addMod (v : Elem) (k : Key) : Elem := reduce256 (v.toNat + k.toNat)

/-- `(v − k) mod 256` (42_modular_transform.md R114). -/
def subMod (v : Elem) (k : Key) : Elem := reduce256 (v.toNat - k.toNat)

/-- `v xor k`, bit by bit (42_modular_transform.md R115). -/
def xorKey (v : Elem) (k : Key) : Elem := v ^^^ k

/-- `(v · k) mod 256` (42_modular_transform.md R116). -/
def mulMod (v : Elem) (k : Key) : Elem := reduce256 (v.toNat * k.toNat)

/-- `Pix(mode, k, C, in)[c]` (40_iteration_wrapper.md R83). -/
def pix (mode : Mode) (k : Key) (inp : Nat → Elem) (c : Nat) : Elem :=
  match mode with
  | .id => inp c
  | .swap a b => if c = a then inp b else if c = b then inp a else inp c
  | .add => addMod (inp c) k
  | .sub => subMod (inp c) k
  | .xor => xorKey (inp c) k
  | .mul => mulMod (inp c) k

/-- `in[c]` of pixel `p`: `MemRead(SRC, p·C + c, 1)` (40_iteration_wrapper.md R81). -/
def State.laneIn (s : State) (p c : Nat) : Elem := s.elemAt .src (pixelOffset s.channels p c)

/-- `out[c]` of pixel `p` (40_iteration_wrapper.md R81). -/
def State.laneOut (s : State) (mode : Mode) (k : Key) (p c : Nat) : Elem := pix mode k (s.laneIn p) c

end Sys2Proof.Machine
end

