-- ==== Sys2Proof/Machine/Flags.lean ====
section
/-! DEFINITION. The only flags of the PXU, the bits of `STATUS` (10_state.md R18 to R23), and the plan
of a command: what it does to each pixel and with which signal it ends (40_iteration_wrapper.md
R82). There is no carry, borrow or overflow flag (R23). -/

namespace Sys2Proof.Machine

open Sys2Proof

/-- The codes of `STATUS.STATE` (10_state.md R19). -/
def RunState.code : RunState → BitVec 2
  | .idle => 0
  | .busy => 1
  | .done => 2

/-- The codes of `STATUS.SIGNAL` (10_state.md R20). -/
def Signal.code : Signal → BitVec 2
  | .transformed => 0
  | .unsupportedFormat => 1
  | .notInvertible => 2
  | .invalidParameter => 3

/-- The byte the host reads from `STATUS`: `STATE` in bits 1:0, `SIGNAL` in bits 3:2, 0 in bits 7:4
(10_state.md R18). -/
def State.statusByte (s : State) : BitVec 8 := 0#4 ++ s.signal.code ++ s.state.code

/-- What `Resolve` gives: the mode of every pixel and the signal at the end
(40_iteration_wrapper.md R82). -/
structure Plan where
  mode : Mode
  signal : Signal
  deriving DecidableEq, Repr

/-- A command that applies its own operation: signal `Transformed` (10_state.md R20). -/
def applies (mode : Mode) : Plan := ⟨mode, .transformed⟩

/-- A command that cannot transform: an identity pass and a signal (60_exceptions.md R141). -/
def cannot (signal : Signal) : Plan := ⟨.id, signal⟩

/-- The channel-count check of the swaps (41_channel_permutation.md R101, R104). -/
def swapPlan (a b channels : Nat) : Plan :=
  if channels < minPermChannels then cannot .unsupportedFormat else applies (.swap a b)

/-- What the host reads from a register (10_state.md R13 to R18). -/
def State.regValue (s : State) : Reg → Nat
  | .cmd => s.cmd.toNat
  | .height => s.height
  | .width => s.width
  | .channels => s.channels
  | .status => s.statusByte.toNat

end Sys2Proof.Machine
end

