-- ==== Sys2Proof/Machine/Command.lean ====
section
/-! DEFINITION. How a command starts, runs and ends, shared by all commands
(40_iteration_wrapper.md R80, R81). -/

namespace Sys2Proof.Machine

open Sys2Proof

/-- `DST` after the first `n` pixels have been written: for every pixel `p < n` and lane `c < C`,
`MemWrite(DST, p·C + c, 1, out[c])` (40_iteration_wrapper.md R81). -/
def Memory.writePixels (m : Memory) (channels : Nat) (out : Nat → Nat → Elem) : Nat → Memory
  | 0 => m
  | p + 1 =>
    (Memory.writePixels m channels out p).fill (pixelOffset channels p 0) (out p) channels

/-- The state after `Exec(w)` (40_iteration_wrapper.md R81): the whole pass over the pixels, `CMD`,
`STATUS`, `IDX_P`; everything else unchanged. -/
def State.afterCommand (s : State) (w : CmdWord) (plan : Plan) : State :=
  { s with
    cmd := w
    state := .done
    signal := plan.signal
    idxP := s.pixels
    dst := s.dst.writePixels s.channels (s.laneOut plan.mode (keyField w)) s.pixels
    draws := s.draws + 1 }

/-- The state right after a command has started (40_iteration_wrapper.md R80). -/
def State.afterStart (s : State) (w : CmdWord) : State :=
  { s with cmd := w, state := .busy, signal := .transformed, idxP := 0 }

/-- A command may start only while `STATE` is not `BUSY` (R80, 70_reset_and_hazards.md R178) and has a
meaning only when `N ≤ MAX_ELEMS` (20_memory.md R46). -/
def State.start (s t : State) : Host.Outcome State Fault Refusal :=
  if s.state = .busy then .refused .accessWhileBusy
  else if s.elements ≤ s.params.maxElems then .next t
  else .refused .bufferTooLarge

/-- `Exec(w)` as one step (40_iteration_wrapper.md R81), for a word with this plan. -/
def runCommand (w : CmdWord) (plan : Plan) (s : State) : Host.Outcome State Fault Refusal :=
  s.start (s.afterCommand w plan)

end Sys2Proof.Machine
end

