-- ==== Sys2Proof/Machine/Copy.lean ====
section
/-! DEFINITION. `COPY` and the reserved encodings (40_iteration_wrapper.md R90, 30_encoding.md R67). -/

namespace Sys2Proof.Machine

open Sys2Proof

/-- `COPY`: identity pass, `Transformed` (40_iteration_wrapper.md R90). -/
def planCopy (_channels : Nat) : Plan := applies .id

/-- `COPY` (40_iteration_wrapper.md R90). -/
def execCopy (key : Key) (s : State) : Host.Outcome State Fault Refusal :=
  runCommand (encode (.copy key)) (planCopy s.channels) s

/-- A reserved encoding: identity pass, `InvalidParameter`, whatever `C` is (30_encoding.md R67,
60_exceptions.md R144, R146). -/
def planReserved (_channels : Nat) : Plan := cannot .invalidParameter

/-- A reserved word written to `CMD` (30_encoding.md R67). -/
def execReserved (w : CmdWord) (s : State) : Host.Outcome State Fault Refusal :=
  runCommand w (planReserved s.channels) s

end Sys2Proof.Machine
end

