-- ==== Sys2Proof/Machine/Inverse.lean ====
section
/-! DEFINITION. The modular-arithmetic unit, inverse: `IXF.ADD`, `IXF.SUB`, `IXF.XOR`, `IXF.MUL`
(43_inverse_transform.md). `SEL` names the operation used to encrypt (R130). -/

namespace Sys2Proof.Machine

open Sys2Proof

/-- `IXF.ADD` subtracts (43_inverse_transform.md R131). -/
def planIxfAdd (_channels : Nat) : Plan := applies .sub

/-- `IXF.SUB` adds (43_inverse_transform.md R132). -/
def planIxfSub (_channels : Nat) : Plan := applies .add

/-- `IXF.XOR` is the same exclusive or (43_inverse_transform.md R133). -/
def planIxfXor (_channels : Nat) : Plan := applies .xor

/-- `IXF.MUL` copies and says `NotInvertible`, for every key (43_inverse_transform.md R134). -/
def planIxfMul (_channels : Nat) : Plan := cannot .notInvertible

/-- `IXF.ADD k` (43_inverse_transform.md R131). -/
def execIxfAdd (key : Key) (s : State) : Host.Outcome State Fault Refusal :=
  runCommand (encode (.ixfAdd key)) (planIxfAdd s.channels) s

/-- `IXF.SUB k` (43_inverse_transform.md R132). -/
def execIxfSub (key : Key) (s : State) : Host.Outcome State Fault Refusal :=
  runCommand (encode (.ixfSub key)) (planIxfSub s.channels) s

/-- `IXF.XOR k` (43_inverse_transform.md R133). -/
def execIxfXor (key : Key) (s : State) : Host.Outcome State Fault Refusal :=
  runCommand (encode (.ixfXor key)) (planIxfXor s.channels) s

/-- `IXF.MUL k` (43_inverse_transform.md R134). -/
def execIxfMul (key : Key) (s : State) : Host.Outcome State Fault Refusal :=
  runCommand (encode (.ixfMul key)) (planIxfMul s.channels) s

end Sys2Proof.Machine
end

