-- ==== Sys2Proof/Machine/Modular.lean ====
section
/-! DEFINITION. The modular-arithmetic unit, forward: `XF.ADD`, `XF.SUB`, `XF.XOR`, `XF.MUL`
(42_modular_transform.md). There is no channel-count check (R111) and the signal is always
`Transformed` (R121). -/

namespace Sys2Proof.Machine

open Sys2Proof

/-- `XF.ADD` (42_modular_transform.md R113). -/
def planXfAdd (_channels : Nat) : Plan := applies .add

/-- `XF.SUB` (42_modular_transform.md R114). -/
def planXfSub (_channels : Nat) : Plan := applies .sub

/-- `XF.XOR` (42_modular_transform.md R115). -/
def planXfXor (_channels : Nat) : Plan := applies .xor

/-- `XF.MUL` (42_modular_transform.md R116): `Transformed` also for an even key. -/
def planXfMul (_channels : Nat) : Plan := applies .mul

/-- `XF.ADD k` (42_modular_transform.md R113). -/
def execXfAdd (key : Key) (s : State) : Host.Outcome State Fault Refusal :=
  runCommand (encode (.xfAdd key)) (planXfAdd s.channels) s

/-- `XF.SUB k` (42_modular_transform.md R114). -/
def execXfSub (key : Key) (s : State) : Host.Outcome State Fault Refusal :=
  runCommand (encode (.xfSub key)) (planXfSub s.channels) s

/-- `XF.XOR k` (42_modular_transform.md R115). -/
def execXfXor (key : Key) (s : State) : Host.Outcome State Fault Refusal :=
  runCommand (encode (.xfXor key)) (planXfXor s.channels) s

/-- `XF.MUL k` (42_modular_transform.md R116). -/
def execXfMul (key : Key) (s : State) : Host.Outcome State Fault Refusal :=
  runCommand (encode (.xfMul key)) (planXfMul s.channels) s

end Sys2Proof.Machine
end

