-- ==== Sys2Proof/Machine/Permutation.lean ====
section
/-! DEFINITION. The channel permutation unit: `PERM.RB`, `PERM.RG`, `PERM.GB`
(41_channel_permutation.md). -/

namespace Sys2Proof.Machine

open Sys2Proof

/-- `PERM.RB`: exchange channels 0 and 2 (41_channel_permutation.md R101, R104). -/
def planPermRB (channels : Nat) : Plan := swapPlan 0 2 channels

/-- `PERM.RG`: exchange channels 0 and 1 (41_channel_permutation.md R102, R104). -/
def planPermRG (channels : Nat) : Plan := swapPlan 0 1 channels

/-- `PERM.GB`: exchange channels 1 and 2 (41_channel_permutation.md R103, R104). -/
def planPermGB (channels : Nat) : Plan := swapPlan 1 2 channels

/-- `PERM.RB` (41_channel_permutation.md R101). -/
def execPermRB (key : Key) (s : State) : Host.Outcome State Fault Refusal :=
  runCommand (encode (.permRB key)) (planPermRB s.channels) s

/-- `PERM.RG` (41_channel_permutation.md R102). -/
def execPermRG (key : Key) (s : State) : Host.Outcome State Fault Refusal :=
  runCommand (encode (.permRG key)) (planPermRG s.channels) s

/-- `PERM.GB` (41_channel_permutation.md R103). -/
def execPermGB (key : Key) (s : State) : Host.Outcome State Fault Refusal :=
  runCommand (encode (.permGB key)) (planPermGB s.channels) s

end Sys2Proof.Machine
end

