-- ==== Sys2Proof/Machine/Wrapper.lean ====
section
/-! DEFINITION. `Resolve` (40_iteration_wrapper.md R82) and the iteration wrapper pixel by pixel
(R80, R84 to R86). -/

namespace Sys2Proof.Machine

open Sys2Proof

/-- The rows of `Resolve` for the twelve commands (40_iteration_wrapper.md R82). -/
def planOf (i : Instr) (channels : Nat) : Plan :=
  match i with
  | .copy _ => planCopy channels
  | .permRB _ => planPermRB channels
  | .permRG _ => planPermRG channels
  | .permGB _ => planPermGB channels
  | .xfAdd _ => planXfAdd channels
  | .xfSub _ => planXfSub channels
  | .xfXor _ => planXfXor channels
  | .xfMul _ => planXfMul channels
  | .ixfAdd _ => planIxfAdd channels
  | .ixfSub _ => planIxfSub channels
  | .ixfXor _ => planIxfXor channels
  | .ixfMul _ => planIxfMul channels

/-- `Resolve(Decode(w), C)`; the test `RESERVED` comes first (40_iteration_wrapper.md R82). -/
def resolve (w : CmdWord) (channels : Nat) : Plan :=
  match decode w with
  | .reserved _ => planReserved channels
  | .command i => planOf i channels

/-- The write to `CMD` that starts a command, in the finer view (40_iteration_wrapper.md R80). -/
def startCommand (w : CmdWord) (s : State) : Host.Outcome State Fault Refusal :=
  s.start (s.afterStart w)

/-- The pixel step (40_iteration_wrapper.md R84): read the `C` lanes of pixel `IDX_P`, write the `C`
lanes of the result, count up. -/
def State.afterPixel (s : State) : State :=
  { s with
    dst := s.dst.fill (pixelOffset s.channels s.idxP 0)
      (s.laneOut (resolve s.cmd s.channels).mode (keyField s.cmd) s.idxP) s.channels
    idxP := s.idxP + 1 }

/-- The end step (40_iteration_wrapper.md R86). -/
def State.afterEnd (s : State) : State :=
  { s with
    signal := (resolve s.cmd s.channels).signal
    state := .done
    draws := s.draws + 1 }

/-- The PXU's own step: a pixel step while `IDX_P < P`, then the end step, and none while no command
runs (40_iteration_wrapper.md R84, R86). -/
def pxuStep (s : State) : State :=
  if s.state = .busy then
    if s.idxP < s.pixels then s.afterPixel else s.afterEnd
  else s

end Sys2Proof.Machine
end

