-- ==== Sys2Proof/Machine/Dispatch.lean ====
section
/-! DEFINITION. `exec`: one arm per command. -/

namespace Sys2Proof.Machine

open Sys2Proof

def exec (i : Instr) (s : State) : Host.Outcome State Fault Refusal :=
  match i with
  | .copy key => Sys2Proof.Machine.execCopy key s
  | .permRB key => Sys2Proof.Machine.execPermRB key s
  | .permRG key => Sys2Proof.Machine.execPermRG key s
  | .permGB key => Sys2Proof.Machine.execPermGB key s
  | .xfAdd key => Sys2Proof.Machine.execXfAdd key s
  | .xfSub key => Sys2Proof.Machine.execXfSub key s
  | .xfXor key => Sys2Proof.Machine.execXfXor key s
  | .xfMul key => Sys2Proof.Machine.execXfMul key s
  | .ixfAdd key => Sys2Proof.Machine.execIxfAdd key s
  | .ixfSub key => Sys2Proof.Machine.execIxfSub key s
  | .ixfXor key => Sys2Proof.Machine.execIxfXor key s
  | .ixfMul key => Sys2Proof.Machine.execIxfMul key s

end Sys2Proof.Machine
end

