-- ==== Sys2Proof/Machine/HostActions.lean ====
section
/-! DEFINITION. What each thing the host may do does (70_reset_and_hazards.md R176 to R178,
10_state.md R13 to R22). Every function here is given the state with the action already taken off
the host's program. -/

namespace Sys2Proof.Machine

open Sys2Proof

/-- A write to `CMD` starts the command its word encodes; a word that encodes none runs as a reserved
encoding (10_state.md R16, 30_encoding.md R67). In the atomic view the whole command is this step
(40_iteration_wrapper.md R81), in the other one this is its start (R80). -/
def writeCmd (w : CmdWord) (s : State) : Host.Outcome State Fault Refusal :=
  match s.view with
  | .atomic =>
    match decode w with
    | .command i => exec i s
    | .reserved _ => execReserved w s
  | .perPixel => startCommand w s

/-- The host reaches registers and buffers only while `STATE` is not `BUSY`
(70_reset_and_hazards.md R178). -/
def State.ifNotBusy (s : State) (t : Host.Outcome State Fault Refusal) :
    Host.Outcome State Fault Refusal :=
  if s.state = .busy then .refused .accessWhileBusy else t

/-- An element exists at the offsets below `MAX_ELEMS` (10_state.md R26, R27). -/
def State.ifElement (s : State) (space : Space) (off : Nat)
    (t : Host.Outcome State Fault Refusal) : Host.Outcome State Fault Refusal :=
  if off < s.params.maxElems then t else .fault (.noSuchElement space off)

/-- Read a register: the value, and no side effect (10_state.md R16, R18). `STATUS` may be read at
any time, the others only while `STATE` is not `BUSY` (R18, 70_reset_and_hazards.md R178). -/
def hostReadReg (n : Nat) (s : State) : Host.Outcome State Fault Refusal :=
  match regOfNumber n with
  | none => .refused (.noSuchRegister n)
  | some .status => .next (s.record (.reg n (s.regValue .status)))
  | some r => s.ifNotBusy (.next (s.record (.reg n (s.regValue r))))

/-- Write a value that fits to a register: a write of `CMD` starts a command, the others only store
(10_state.md R13 to R18). -/
def writeRegister (r : Reg) (v : Nat) (s : State) : Host.Outcome State Fault Refusal :=
  match r with
  | .cmd => writeCmd (BitVec.ofNat 16 v) s
  | .height => .next (s.setParam .height v)
  | .width => .next (s.setParam .width v)
  | .channels => .next (s.setParam .channels v)
  | .status => .next (s.setParam .status v)

/-- Write a register, by its number (10_state.md R13 to R18, R22). -/
def hostWriteReg (n v : Nat) (s : State) : Host.Outcome State Fault Refusal :=
  match regOfNumber n with
  | none => .refused (.noSuchRegister n)
  | some r =>
    s.ifNotBusy
      (if v < 2 ^ Params.regWidth s.params r then writeRegister r v s
      else .refused (.valueTooWide n v))

/-- Read one element (70_reset_and_hazards.md R176). -/
def hostReadElem (space : Space) (off : Nat) (s : State) : Host.Outcome State Fault Refusal :=
  s.ifNotBusy (s.ifElement space off
    (.next (s.record (.elem space off (s.elemAt space off))).nextDraw))

/-- Write one element (70_reset_and_hazards.md R176). -/
def hostWriteElem (space : Space) (off : Nat) (v : Elem) (s : State) :
    Host.Outcome State Fault Refusal :=
  s.ifNotBusy (s.ifElement space off
    (.next (s.setBuffer space ((s.buffer space).write off v))))

/-- `MOVE`: the host copies `DST[0..N−1]` to `SRC[0..N−1]` (30_encoding.md R70,
70_reset_and_hazards.md R177); with `N > MAX_ELEMS` it would read an element that does not exist. -/
def hostMove (s : State) : Host.Outcome State Fault Refusal :=
  s.ifNotBusy
    (if s.elements ≤ s.params.maxElems then .next s.afterMove
    else .fault (.noSuchElement .dst s.params.maxElems))

/-- The host waits for `DONE` (70_reset_and_hazards.md R173 step 5): while a command runs, it takes
its next step and the host goes on waiting. -/
def hostAwaitDone (s : State) : State :=
  if s.state = .busy then pxuStep (s.setHost (.awaitDone :: s.host)) else s

/-- The effect of one host action. -/
def hostAct (a : HostAction) (s : State) : Host.Outcome State Fault Refusal :=
  match a with
  | .readReg n => hostReadReg n s
  | .writeReg n v => hostWriteReg n v s
  | .readElem space off => hostReadElem space off s
  | .writeElem space off v => hostWriteElem space off v s
  | .move => hostMove s
  | .reset => .next s.clear
  | .wait => .next (pxuStep s)
  | .awaitDone => .next (hostAwaitDone s)

/-- One step of the PXU and its host: the host's next action; with no action left, a running command
goes on, and an idle PXU keeps all its state (60_exceptions.md R157, 70_reset_and_hazards.md R171). -/
def systemStep (s : State) : Host.Outcome State Fault Refusal :=
  match s.host with
  | [] => .next (pxuStep s)
  | a :: rest => hostAct a (s.setHost rest)

/-- The host's next action becomes the write of the word `w` to `CMD`, in the atomic view, while no
command runs. -/
def placeCommand (w : Nat) (s : State) : State :=
  { s with
    view := .atomic
    state := if s.state = .busy then .idle else s.state
    host := .writeReg 0 w :: s.host }

end Sys2Proof.Machine
end

