-- ==== Sys2Proof/Machine/Step.lean ====
section
/-! DEFINITION. The step, with its three outcomes (next, fault, refusal), and how an instruction word
is placed where the step takes its next instruction from. -/

namespace Sys2Proof.Machine

open Sys2Proof

/-- One step (Machine/HostActions.lean). -/
def step (s : State) : Host.Outcome State Fault Refusal := systemStep s

/-- `s` with the command word `w` as what the host writes to `CMD` next: the PXU fetches nothing from
memory, a command is the word of the host's write (20_memory.md R54). A word has 16 bits whatever
`nbits` says, and the bits above are 0 (30_encoding.md R60). -/
def State.withFetchWord (s : State) (_nbits w : Nat) : State := placeCommand w s

end Sys2Proof.Machine
end

