-- ==== Sys2Proof/WellFormed.lean ====
section
/-! DEFINITION. What is well formed: the parameters of a PXU (00_scope.md R7) and a command line of
the assembler (30_encoding.md R70). A term of `Instr` needs no check: `KEY` is 8 bits by its type and
every 8-bit key is accepted (42_modular_transform.md R120). -/

namespace Sys2Proof

/-- The parameters are legal: positive widths (D5) and 1 ≤ `MAX_ELEMS` ≤ 2^`IDX_BITS` (R7). -/
def Params.wf (p : Params) : Bool :=
  decide (1 ≤ p.dimBits) && decide (1 ≤ p.chBits) &&
    decide (1 ≤ p.maxElems) && decide (p.maxElems ≤ 2 ^ p.idxBits)

/-- The twelve mnemonics of 30_encoding.md R65. -/
inductive Mnemonic where
  | copy | permRB | permRG | permGB
  | xfAdd | xfSub | xfXor | xfMul
  | ixfAdd | ixfSub | ixfXor | ixfMul
  deriving DecidableEq, Repr

/-- The eight commands whose mnemonic is followed by a key (30_encoding.md R70). -/
def Mnemonic.keyed : Mnemonic → Bool
  | .copy => false
  | .permRB => false
  | .permRG => false
  | .permGB => false
  | .xfAdd => true
  | .xfSub => true
  | .xfXor => true
  | .xfMul => true
  | .ixfAdd => true
  | .ixfSub => true
  | .ixfXor => true
  | .ixfMul => true

/-- One line of a host program in the assembler's form: a mnemonic and, for a keyed command, the key
as the host writes it, any integer (30_encoding.md R70). -/
structure CommandLine where
  op : Mnemonic
  key : Option Int
  deriving DecidableEq, Repr

/-- A keyed command has a key from 0 to 255 ("A key outside 0 to 255 is an assembler error, not a
truncation"); the four unkeyed commands have none (30_encoding.md R70). -/
def CommandLine.wf (l : CommandLine) : Bool :=
  match l.key with
  | none => !l.op.keyed
  | some k => l.op.keyed && decide (0 ≤ k) && decide (k ≤ 255)

end Sys2Proof
end

