-- ==== Sys2Proof/Machine/Assembler.lean ====
section
/-! DEFINITION. The host's side of a command: the assembler's lines, the pseudo-instructions, the
host actions as sequences, and the reduction of a key (30_encoding.md R64, R70, R71). -/

namespace Sys2Proof.Machine

open Sys2Proof

/-- The `KEY` a host writes for a key that is any integer: `K mod 256` (30_encoding.md R64). -/
def hostKey (k : Int) : Key := BitVec.ofInt 8 k

/-- The command of a mnemonic with a `KEY` byte (30_encoding.md R65). -/
def mnemonicInstr : Mnemonic → Key → Instr
  | .copy => .copy
  | .permRB => .permRB
  | .permRG => .permRG
  | .permGB => .permGB
  | .xfAdd => .xfAdd
  | .xfSub => .xfSub
  | .xfXor => .xfXor
  | .xfMul => .xfMul
  | .ixfAdd => .ixfAdd
  | .ixfSub => .ixfSub
  | .ixfXor => .ixfXor
  | .ixfMul => .ixfMul

/-- The word of a command line; for an unkeyed command the assembler emits `KEY` = 0
(30_encoding.md R70). An ill-formed line is an assembler error. -/
def assemble (l : CommandLine) : Option CmdWord :=
  if l.wf then some (encode (mnemonicInstr l.op (hostKey (l.key.getD 0)))) else none

/-- The document's SwapPattern (30_encoding.md R63). -/
inductive SwapPattern where
  | redBlue
  | redGreen
  | greenBlue
  deriving DecidableEq, Repr

/-- The document's MathOperation (30_encoding.md R63). -/
inductive MathOperation where
  | add
  | subtract
  | xor
  | multiply
  deriving DecidableEq, Repr

/-- The five pseudo-instructions (30_encoding.md R71). -/
inductive Pseudo where
  | encSwap (p : SwapPattern)
  | decSwap (p : SwapPattern)
  | encMath (op : MathOperation) (k : Int)
  | decMath (op : MathOperation) (k : Int)
  | exit
  deriving DecidableEq, Repr

/-- `PERM.p` (30_encoding.md R71). -/
def SwapPattern.line : SwapPattern → CommandLine
  | .redBlue => ⟨.permRB, none⟩
  | .redGreen => ⟨.permRG, none⟩
  | .greenBlue => ⟨.permGB, none⟩

/-- `XF.op k` (30_encoding.md R71). -/
def MathOperation.forward : MathOperation → Int → CommandLine
  | .add, k => ⟨.xfAdd, some k⟩
  | .subtract, k => ⟨.xfSub, some k⟩
  | .xor, k => ⟨.xfXor, some k⟩
  | .multiply, k => ⟨.xfMul, some k⟩

/-- `IXF.op k` (30_encoding.md R71). -/
def MathOperation.backward : MathOperation → Int → CommandLine
  | .add, k => ⟨.ixfAdd, some k⟩
  | .subtract, k => ⟨.ixfSub, some k⟩
  | .xor, k => ⟨.ixfXor, some k⟩
  | .multiply, k => ⟨.ixfMul, some k⟩

/-- What a pseudo-instruction expands to; `exit` sends nothing to the PXU (30_encoding.md R71,
40_iteration_wrapper.md R93). -/
def Pseudo.expand : Pseudo → List CommandLine
  | .encSwap p => [p.line]
  | .decSwap p => [p.line]
  | .encMath op k => [op.forward k]
  | .decMath op k => [op.backward k]
  | .exit => []

/-- `SET H W C` (30_encoding.md R70). -/
def setDims (height width channels : Nat) : List HostAction :=
  [.writeReg 1 height, .writeReg 2 width, .writeReg 3 channels]

/-- `LOAD SRC [...]`, from offset `off` on (30_encoding.md R70). -/
def loadSrc : Nat → List Elem → List HostAction
  | _, [] => []
  | off, v :: rest => .writeElem .src off v :: loadSrc (off + 1) rest

/-- A command: the write of its word to `CMD`, and waiting for its end (70_reset_and_hazards.md R173
steps 3 and 5). -/
def issue (w : CmdWord) : List HostAction := [.writeReg 0 w.toNat, .awaitDone]

/-- `READ STATUS` (30_encoding.md R70). -/
def readStatus : List HostAction := [.readReg 4]

/-- `READ DST` of a buffer of `n` elements (30_encoding.md R70). -/
def readDst (n : Nat) : List HostAction := (List.range n).map (.readElem .dst)

end Sys2Proof.Machine
end

