-- ==== Sys2Proof/Machine/System.lean ====
section
/-! DEFINITION. Several PXUs side by side: complete copies that share nothing (60_exceptions.md R156). -/

namespace Sys2Proof.Machine

open Sys2Proof

/-- Any number of PXUs, each with its host (60_exceptions.md R156). DESIGN CHOICE, unsafe (log entries
4 and 11): each PXU counts its own draws, so two of them with equal `draws` read the same free value
at an offset that neither has written. -/
abbrev System := List State

/-- One step of PXU number `n`. -/
def stepUnit (sys : System) (n : Nat) : Host.Outcome System Fault Refusal :=
  match sys[n]? with
  | none => .refused (.noSuchUnit n)
  | some s =>
    match step s with
    | .next t => .next (sys.set n t)
    | .fault r => .fault r
    | .refused r => .refused r

end Sys2Proof.Machine
end

