-- ==== Sys2Proof/Safety.lean ====
section
/-! DEFINITION. The invariant of the machine, what a command leaves alone, and when a run of the host
is over, in the terms the statements use. -/

namespace Sys2Proof.Machine

open Sys2Proof

/-- What holds in every state a run reaches. -/
structure State.Inv (s : State) : Prop where
  /-- The parameters are legal (00_scope.md R7). -/
  params_wf : s.params.wf = true
  /-- `HEIGHT` has `DIM_BITS` bits (10_state.md R13). -/
  height_lt : s.height < 2 ^ s.params.dimBits
  /-- `WIDTH` has `DIM_BITS` bits (10_state.md R14). -/
  width_lt : s.width < 2 ^ s.params.dimBits
  /-- `CHANNELS` has `CH_BITS` bits (10_state.md R15). -/
  channels_lt : s.channels < 2 ^ s.params.chBits
  /-- `IDX_P` has 2·`DIM_BITS` bits and cannot wrap (10_state.md R24). -/
  idxP_lt : s.idxP < 2 ^ (2 * s.params.dimBits)
  /-- `SRC` is in canonical form. -/
  src_wf : s.src.wf = true
  /-- `DST` is in canonical form. -/
  dst_wf : s.dst.wf = true
  /-- `SRC` has no element at or above `MAX_ELEMS` (10_state.md R26). -/
  src_inside : ∀ off, s.params.maxElems ≤ off → s.src.read off = none
  /-- `DST` has no element at or above `MAX_ELEMS` (10_state.md R27). -/
  dst_inside : ∀ off, s.params.maxElems ≤ off → s.dst.read off = none
  /-- `IDLE`: no command has been started since reset (10_state.md R19). -/
  idle_fresh : s.state = .idle → s.cmd = 0 ∧ s.signal = .transformed ∧ s.idxP = 0
  /-- `BUSY`: `0 ≤ IDX_P ≤ P`, the buffer fits, and `SIGNAL` is still 0 (10_state.md R20, R24,
  20_memory.md R46). -/
  busy_inside : s.state = .busy →
    s.idxP ≤ s.pixels ∧ s.elements ≤ s.params.maxElems ∧ s.signal = .transformed
  /-- `DONE`: `SIGNAL` is a signal the word in `CMD` can end with (60_exceptions.md R145, R147). -/
  done_signal : s.state = .done → ∃ channels, s.signal = (resolve s.cmd channels).signal

/-- Everything a command leaves unchanged (10_state.md R31, 40_iteration_wrapper.md R81): the
parameters and the view, the dimension registers, all of `SRC`, the elements of `DST` from `N` on, and
what belongs to the host. -/
structure CommandFrame (s t : State) : Prop where
  params : t.params = s.params
  view : t.view = s.view
  height : t.height = s.height
  width : t.width = s.width
  channels : t.channels = s.channels
  src : ∀ off, t.src.read off = s.src.read off
  dst : ∀ off, s.elements ≤ off → t.dst.read off = s.dst.read off
  host : t.host = s.host
  recorded : t.recorded = s.recorded

/-- A command may run: no other one is running and the buffer fits (40_iteration_wrapper.md R80,
20_memory.md R46). -/
def State.Ready (s : State) : Prop := s.state ≠ .busy ∧ s.elements ≤ s.params.maxElems

/-- What every finished command has written besides `DST`: `CMD`, `STATUS` and `IDX_P`
(40_iteration_wrapper.md R81). -/
structure Finished (s t : State) (w : CmdWord) (signal : Signal) : Prop where
  cmd : t.cmd = w
  state : t.state = .done
  signal : t.signal = signal
  idxP : t.idxP = s.pixels

/-- The identity pass: `DST[e] <- SRC[e]` for every `e < N` (00_scope.md R9). -/
def IdentityPass (s t : State) : Prop :=
  ∀ e, e < s.elements → t.dst.read e = some (s.elemAt .src e)

/-- The word with this `KEY` byte and this low byte, `(k << 8) | match` (30_encoding.md R65). -/
def wordOf (key : Key) (low : BitVec 8) : CmdWord := key ++ low

/-- The swap of lanes `a` and `b` in every pixel, the other lanes copied (41_channel_permutation.md
R100): `DST[p·C + a] <- SRC[p·C + b]`, `DST[p·C + b] <- SRC[p·C + a]`. -/
def SwapPass (s t : State) (a b : Nat) : Prop :=
  ∀ p, p < s.pixels →
    t.dst.read (p * s.channels + a) = some (s.elemAt .src (p * s.channels + b)) ∧
    t.dst.read (p * s.channels + b) = some (s.elemAt .src (p * s.channels + a)) ∧
    ∀ c, c < s.channels → c ≠ a → c ≠ b →
      t.dst.read (p * s.channels + c) = some (s.elemAt .src (p * s.channels + c))

/-- The arithmetic pass: every element `v` of the buffer gives the element whose number is `f v`
(42_modular_transform.md R111, R112). -/
def ArithPass (s t : State) (f : Int → Int) : Prop :=
  ∀ e, e < s.elements →
    ∃ d : Elem, t.dst.read e = some d ∧ (d.toNat : Int) = f (s.elemAt .src e).toNat

/-- Running `second` on the moved result of `first` gives back the first buffer, element for element
(41_channel_permutation.md R105, 42_modular_transform.md R119, 43_inverse_transform.md R135). -/
def Undoes (first second : Instr) : Prop :=
  ∀ s : State, s.Ready → ∃ t u v, exec first s = .next t ∧ hostMove t = .next u ∧
    exec second u = .next v ∧ ∀ e, e < s.elements → v.dst.read e = some (s.elemAt .src e)

/-- The host accesses that are allowed only while `STATE` is not `BUSY`: all but a `STATUS` read and a
reset (70_reset_and_hazards.md R178). Waiting is no access. -/
def HostAction.needsIdle : HostAction → Bool
  | .readReg n => decide (n < 4)
  | .writeReg n _ => decide (n < 5)
  | .readElem _ _ => true
  | .writeElem _ _ _ => true
  | .move => true
  | .reset => false
  | .wait => false
  | .awaitDone => false

/-- The host lets a running command take its next step, and `left` is what then remains of its program:
it has no action left, it does nothing for one step, or it waits for the end of the command. Which
actions let the PXU step is the model's choice (log entry 5). -/
def State.HostWaits (s : State) (left : List HostAction) : Prop :=
  (s.host = [] ∧ left = []) ∨ s.host = .wait :: left ∨
    ∃ rest, s.host = .awaitDone :: rest ∧ left = .awaitDone :: rest

/-- A run of the host is over: its last action is done and no command runs
(70_reset_and_hazards.md R174). -/
def State.RunOver (s : State) : Prop := s.host = [] ∧ s.state ≠ .busy

/-- `n` steps of the machine. -/
def runSteps (n : Nat) (s : State) : Host.Outcome State Fault Refusal := core.run n s

end Sys2Proof.Machine
end

