-- ==== Sys2Proof/Certificates/Slice0/Obligations.lean ====
section
/-! DEFINITION. The statements for the provers, each a Prop under the name Obligations. -/

open Sys2Proof Sys2Proof.Machine

/-! ### The encoding (30_encoding.md) -/

/-- Words of every family, written out from the fields of 30_encoding.md R61. -/
def Obligations.SpecWordsDecode : Prop :=
  decode 0xAB00 = .command (.copy 0xAB) ∧ decode 0x0004 = .command (.permRB 0) ∧
  decode 0xFF06 = .command (.permGB 0xFF) ∧ decode 0x6408 = .command (.xfAdd 100) ∧
  decode 0x320B = .command (.xfMul 50) ∧ decode 0x640C = .command (.ixfAdd 100) ∧
  decode 0x090E = .command (.ixfXor 9) ∧ decode 0x0107 = .reserved .noSuchSelector ∧
  decode 0x6418 = .reserved .rsvNotZero

/-- 30_encoding.md R65: `w` encodes a command exactly when `(w & mask) = match`, the mask 0x00FF for
all twelve, the key the high byte. -/
def Obligations.DecodeFollowsTheTable : Prop :=
  ∀ w : CmdWord,
    (decode w = .command (.copy (keyField w)) ↔ w &&& 0x00FF = 0x0000) ∧
    (decode w = .command (.permRB (keyField w)) ↔ w &&& 0x00FF = 0x0004) ∧
    (decode w = .command (.permRG (keyField w)) ↔ w &&& 0x00FF = 0x0005) ∧
    (decode w = .command (.permGB (keyField w)) ↔ w &&& 0x00FF = 0x0006) ∧
    (decode w = .command (.xfAdd (keyField w)) ↔ w &&& 0x00FF = 0x0008) ∧
    (decode w = .command (.xfSub (keyField w)) ↔ w &&& 0x00FF = 0x0009) ∧
    (decode w = .command (.xfXor (keyField w)) ↔ w &&& 0x00FF = 0x000A) ∧
    (decode w = .command (.xfMul (keyField w)) ↔ w &&& 0x00FF = 0x000B) ∧
    (decode w = .command (.ixfAdd (keyField w)) ↔ w &&& 0x00FF = 0x000C) ∧
    (decode w = .command (.ixfSub (keyField w)) ↔ w &&& 0x00FF = 0x000D) ∧
    (decode w = .command (.ixfXor (keyField w)) ↔ w &&& 0x00FF = 0x000E) ∧
    (decode w = .command (.ixfMul (keyField w)) ↔ w &&& 0x00FF = 0x000F)

/-- 30_encoding.md R67: the reserved encodings, by their fields, and the high byte never decides. -/
def Obligations.ReservedEncodingsExactly : Prop :=
  ∀ w : CmdWord,
    ((∃ why, decode w = .reserved why) ↔
      rsvField w ≠ 0 ∨ (unitField w = 0 ∧ selField w ≠ 0) ∨ (unitField w = 1 ∧ selField w = 3)) ∧
    ∀ key : Key, (∃ why, decode w = .reserved why) →
      ∃ why, decode (wordOf key (w.extractLsb' 0 8)) = .reserved why

/-- Every command, with every key, is what its own word decodes to. -/
def Obligations.DecodeOfEncode : Prop := ∀ i : Instr, decode (encode i) = .command i

/-- Every word that decodes to a command is that command's word: no bit of it is dropped. -/
def Obligations.EncodeOfDecode : Prop :=
  ∀ (w : CmdWord) (i : Instr), decode w = .command i → encode i = w

/-! ### The twelve commands -/

/-- 40_iteration_wrapper.md R90. -/
def Obligations.CopyCopiesTheBuffer : Prop :=
  ∀ (s : State) (key : Key), s.Ready → ∃ t, exec (.copy key) s = .next t ∧
    IdentityPass s t ∧ Finished s t (wordOf key 0x00) .transformed ∧ CommandFrame s t

/-- 41_channel_permutation.md R101, with R104 for fewer than 3 channels. -/
def Obligations.PermRBSwapsRedAndBlue : Prop :=
  ∀ (s : State) (key : Key), s.Ready → ∃ t, exec (.permRB key) s = .next t ∧ CommandFrame s t ∧
    (3 ≤ s.channels → SwapPass s t 0 2 ∧ Finished s t (wordOf key 0x04) .transformed) ∧
    (s.channels < 3 → IdentityPass s t ∧ Finished s t (wordOf key 0x04) .unsupportedFormat)

/-- 41_channel_permutation.md R102, with R104 for fewer than 3 channels. -/
def Obligations.PermRGSwapsRedAndGreen : Prop :=
  ∀ (s : State) (key : Key), s.Ready → ∃ t, exec (.permRG key) s = .next t ∧ CommandFrame s t ∧
    (3 ≤ s.channels → SwapPass s t 0 1 ∧ Finished s t (wordOf key 0x05) .transformed) ∧
    (s.channels < 3 → IdentityPass s t ∧ Finished s t (wordOf key 0x05) .unsupportedFormat)

/-- 41_channel_permutation.md R103, with R104 for fewer than 3 channels. -/
def Obligations.PermGBSwapsGreenAndBlue : Prop :=
  ∀ (s : State) (key : Key), s.Ready → ∃ t, exec (.permGB key) s = .next t ∧ CommandFrame s t ∧
    (3 ≤ s.channels → SwapPass s t 1 2 ∧ Finished s t (wordOf key 0x06) .transformed) ∧
    (s.channels < 3 → IdentityPass s t ∧ Finished s t (wordOf key 0x06) .unsupportedFormat)

/-- 42_modular_transform.md R113. -/
def Obligations.XfAddAddsTheKey : Prop :=
  ∀ (s : State) (key : Key), s.Ready → ∃ t, exec (.xfAdd key) s = .next t ∧
    ArithPass s t (fun v => (v + key.toNat) % 256) ∧
    Finished s t (wordOf key 0x08) .transformed ∧ CommandFrame s t

/-- 42_modular_transform.md R114: the residue is not negative. -/
def Obligations.XfSubSubtractsTheKey : Prop :=
  ∀ (s : State) (key : Key), s.Ready → ∃ t, exec (.xfSub key) s = .next t ∧
    ArithPass s t (fun v => if v < key.toNat then v - key.toNat + 256 else v - key.toNat) ∧
    Finished s t (wordOf key 0x09) .transformed ∧ CommandFrame s t

/-- 42_modular_transform.md R115, bit by bit. -/
def Obligations.XfXorXorsTheKey : Prop :=
  ∀ (s : State) (key : Key), s.Ready → ∃ t, exec (.xfXor key) s = .next t ∧
    (∀ e, e < s.elements → ∃ d : Elem, t.dst.read e = some d ∧
      ∀ b, b < 8 → d.getLsbD b = ((s.elemAt .src e).getLsbD b ^^ key.getLsbD b)) ∧
    Finished s t (wordOf key 0x0A) .transformed ∧ CommandFrame s t

/-- 42_modular_transform.md R116: `Transformed` for an even key too. -/
def Obligations.XfMulMultipliesByTheKey : Prop :=
  ∀ (s : State) (key : Key), s.Ready → ∃ t, exec (.xfMul key) s = .next t ∧
    ArithPass s t (fun v => (v * key.toNat) % 256) ∧
    Finished s t (wordOf key 0x0B) .transformed ∧ CommandFrame s t

/-- 43_inverse_transform.md R131; the same `DST` and `STATUS` as `XF.SUB k`. -/
def Obligations.IxfAddSubtractsTheKey : Prop :=
  ∀ (s : State) (key : Key), s.Ready → ∃ t, exec (.ixfAdd key) s = .next t ∧
    ArithPass s t (fun v => (v - key.toNat) % 256) ∧
    Finished s t (wordOf key 0x0C) .transformed ∧ CommandFrame s t ∧
    ((∀ e, e < s.elements → (s.src.read e).isSome = true) →
      ∃ u, exec (.xfSub key) s = .next u ∧ t.dst = u.dst ∧ t.statusByte = u.statusByte)

/-- 43_inverse_transform.md R132; the same `DST` and `STATUS` as `XF.ADD k`. -/
def Obligations.IxfSubAddsTheKey : Prop :=
  ∀ (s : State) (key : Key), s.Ready → ∃ t, exec (.ixfSub key) s = .next t ∧
    ArithPass s t (fun v => (v + key.toNat) % 256) ∧
    Finished s t (wordOf key 0x0D) .transformed ∧ CommandFrame s t ∧
    ((∀ e, e < s.elements → (s.src.read e).isSome = true) →
      ∃ u, exec (.xfAdd key) s = .next u ∧ t.dst = u.dst ∧ t.statusByte = u.statusByte)

/-- 43_inverse_transform.md R133; the same `DST` and `STATUS` as `XF.XOR k`. -/
def Obligations.IxfXorXorsTheKey : Prop :=
  ∀ (s : State) (key : Key), s.Ready → ∃ t, exec (.ixfXor key) s = .next t ∧
    (∀ e, e < s.elements → ∃ d : Elem, t.dst.read e = some d ∧
      ∀ b, b < 8 → d.getLsbD b = ((s.elemAt .src e).getLsbD b ^^ key.getLsbD b)) ∧
    Finished s t (wordOf key 0x0E) .transformed ∧ CommandFrame s t ∧
    ((∀ e, e < s.elements → (s.src.read e).isSome = true) →
      ∃ u, exec (.xfXor key) s = .next u ∧ t.dst = u.dst ∧ t.statusByte = u.statusByte)

/-- 43_inverse_transform.md R134: for every key, odd or even. -/
def Obligations.IxfMulCopiesAndSignals : Prop :=
  ∀ (s : State) (key : Key), s.Ready → ∃ t, exec (.ixfMul key) s = .next t ∧
    IdentityPass s t ∧ Finished s t (wordOf key 0x0F) .notInvertible ∧ CommandFrame s t

/-- 41_channel_permutation.md R104: every swap pattern, every channel count below 3. -/
def Obligations.SwapsNeedThreeChannels : Prop :=
  ∀ (s : State) (key : Key) (i : Instr), i = .permRB key ∨ i = .permRG key ∨ i = .permGB key →
    s.Ready → s.channels < 3 →
    ∃ t, exec i s = .next t ∧ t.signal = .unsupportedFormat ∧ t.state = .done ∧
      (∀ e, e < s.elements → t.dst.read e = some (s.elemAt .src e)) ∧
      ∀ off, t.src.read off = s.src.read off

/-! ### What holds of all commands -/

/-- A step runs the decoded command: in the atomic view the action is taken off the host's program,
and the rest is `exec` (the host's program and the view are the model's, log entries 2 and 3). -/
def Obligations.StepRunsTheDecodedCommand : Prop :=
  ∀ (s : State) (w : CmdWord) (i : Instr) (rest : List HostAction),
    s.view = .atomic → s.state ≠ .busy → s.host = .writeReg 0 w.toNat :: rest →
    decode w = .command i → step s = exec i (s.setHost rest)

/-- 60_exceptions.md R144 and R146: a reserved word is an identity pass with `InvalidParameter`,
whatever the channel count. -/
def Obligations.ReservedWordIsAnIdentityPass : Prop :=
  ∀ (s : State) (w : CmdWord) (why : Reserved) (rest : List HostAction),
    s.view = .atomic → s.Ready → s.host = .writeReg 0 w.toNat :: rest → decode w = .reserved why →
    ∃ t, step s = .next t ∧ IdentityPass s t ∧ Finished s t w .invalidParameter ∧
      CommandFrame (s.setHost rest) t

/-- 60_exceptions.md R140: every word whatever runs to the end and leaves a complete buffer. -/
def Obligations.EveryWordEndsInDone : Prop :=
  ∀ (s : State) (w : CmdWord) (rest : List HostAction),
    s.view = .atomic → s.Ready → s.host = .writeReg 0 w.toNat :: rest →
    ∃ t, step s = .next t ∧ t.state = .done ∧ t.cmd = w ∧
      ∀ e, e < s.elements → ∃ d, t.dst.read e = some d

/-- 60_exceptions.md R145: the signal is a function of the word and of `CHANNELS` alone; the last part
is the row of the reserved encodings. -/
def Obligations.SignalTable : Prop :=
  ∀ s : State, s.Ready →
    (∀ i : Instr, ∃ t, exec i s = .next t ∧
      t.signal = match i with
        | .copy _ => .transformed
        | .permRB _ => if 3 ≤ s.channels then .transformed else .unsupportedFormat
        | .permRG _ => if 3 ≤ s.channels then .transformed else .unsupportedFormat
        | .permGB _ => if 3 ≤ s.channels then .transformed else .unsupportedFormat
        | .xfAdd _ => .transformed
        | .xfSub _ => .transformed
        | .xfXor _ => .transformed
        | .xfMul _ => .transformed
        | .ixfAdd _ => .transformed
        | .ixfSub _ => .transformed
        | .ixfXor _ => .transformed
        | .ixfMul _ => .notInvertible) ∧
    ∀ (w : CmdWord) (why : Reserved) (rest : List HostAction), s.view = .atomic →
      s.host = .writeReg 0 w.toNat :: rest → decode w = .reserved why →
      ∃ t, step s = .next t ∧ t.signal = .invalidParameter

/-- A signal other than `Transformed` means a plain copy (60_exceptions.md R141). -/
def Obligations.FailureIsAnIdentityPass : Prop :=
  ∀ (s t : State) (i : Instr), exec i s = .next t → t.signal ≠ .transformed → IdentityPass s t

/-- 40_iteration_wrapper.md R88: an empty buffer. -/
def Obligations.EmptyBufferWritesNothing : Prop :=
  ∀ (s : State) (i : Instr), s.state ≠ .busy →
    (s.height = 0 ∨ s.width = 0 ∨ s.channels = 0) →
    ∃ t, exec i s = .next t ∧ (∀ off, t.dst.read off = s.dst.read off) ∧ t.state = .done ∧
      t.signal = (planOf i s.channels).signal ∧
      (s.channels = 0 → ∀ key, i = .permRB key ∨ i = .permRG key ∨ i = .permGB key →
        t.signal = .unsupportedFormat)

/-- 20_memory.md R46: a buffer that does not fit gives the command no meaning, whatever the word
written to `CMD`, a reserved one included, and in either view. -/
def Obligations.TooLargeBufferRefused : Prop :=
  ∀ s : State, s.state ≠ .busy → s.params.maxElems < s.height * s.width * s.channels →
    (∀ i : Instr, exec i s = .refused .bufferTooLarge) ∧
    ∀ (w : CmdWord) (rest : List HostAction), s.host = .writeReg 0 w.toNat :: rest →
      step s = .refused .bufferTooLarge

/-- 10_state.md R31: the result is a function of `CMD`, the dimensions and `SRC[0..N−1]` alone; not of
the previous `STATUS`, `CMD`, `IDX_P` or the old contents of `DST`. -/
def Obligations.ResultDependsOnInputsOnly : Prop :=
  ∀ (s₁ s₂ : State) (i : Instr), s₁.Ready → s₂.Ready → s₁.height = s₂.height →
    s₁.width = s₂.width → s₁.channels = s₂.channels →
    (∀ e, e < s₁.elements → ∃ v, s₁.src.read e = some v ∧ s₂.src.read e = some v) →
    ∃ t₁ t₂, exec i s₁ = .next t₁ ∧ exec i s₂ = .next t₂ ∧
      (∀ e, e < s₁.elements → t₁.dst.read e = t₂.dst.read e) ∧
      t₁.state = t₂.state ∧ t₁.signal = t₂.signal ∧ t₁.cmd = t₂.cmd ∧ t₁.idxP = t₂.idxP

/-- 20_memory.md R51: what is written to a pixel depends on the same pixel of `SRC` alone. -/
def Obligations.PixelsDoNotMix : Prop :=
  ∀ (s₁ s₂ : State) (i : Instr) (p : Nat), s₁.Ready → s₂.Ready → s₁.channels = s₂.channels →
    p < s₁.pixels → p < s₂.pixels →
    (∀ c, c < s₁.channels → ∃ v, s₁.src.read (p * s₁.channels + c) = some v ∧
      s₂.src.read (p * s₁.channels + c) = some v) →
    ∃ t₁ t₂, exec i s₁ = .next t₁ ∧ exec i s₂ = .next t₂ ∧
      ∀ c, c < s₁.channels →
        t₁.dst.read (p * s₁.channels + c) = t₂.dst.read (p * s₁.channels + c)

/-- 41_channel_permutation.md R106: a swap keeps the multiset of values of each pixel. -/
def Obligations.SwapsKeepPixelValues : Prop :=
  ∀ (s : State) (key : Key) (i : Instr), i = .permRB key ∨ i = .permRG key ∨ i = .permGB key →
    s.Ready → ∃ t, exec i s = .next t ∧ ∀ p, p < s.pixels →
      ((List.range s.channels).map fun c => t.dst.read (p * s.channels + c)).Perm
        ((List.range s.channels).map fun c => some (s.elemAt .src (p * s.channels + c)))

/-! ### The laws of the commands -/

/-- 41_channel_permutation.md R105: a swap is its own inverse, also where it is refused for want of
channels; the two words' unused keys need not be the same. -/
def Obligations.SwapTwiceRestores : Prop :=
  ∀ key key' : Key, Undoes (.permRB key) (.permRB key') ∧ Undoes (.permRG key) (.permRG key') ∧
    Undoes (.permGB key) (.permGB key')

/-- 42_modular_transform.md R119, for every key, 0 included. -/
def Obligations.ForwardRoundTrips : Prop :=
  ∀ key : Key, Undoes (.xfAdd key) (.xfSub key) ∧ Undoes (.xfSub key) (.xfAdd key) ∧
    Undoes (.xfXor key) (.xfXor key)

/-- 43_inverse_transform.md R135, for every key, 0 included. -/
def Obligations.InverseRoundTrips : Prop :=
  ∀ key : Key, Undoes (.xfAdd key) (.ixfAdd key) ∧ Undoes (.xfSub key) (.ixfSub key) ∧
    Undoes (.xfXor key) (.ixfXor key)

/-- 43_inverse_transform.md R136: the inverse of Multiply leaves the multiplied buffer; it is the
first buffer exactly where multiplying changes no element. -/
def Obligations.MultiplyDoesNotRoundTrip : Prop :=
  ∀ (s : State) (key key' : Key), s.Ready → ∃ t u v, exec (.xfMul key) s = .next t ∧
    hostMove t = .next u ∧ exec (.ixfMul key') u = .next v ∧ v.signal = .notInvertible ∧
    (∀ e, e < s.elements → v.dst.read e = t.dst.read e) ∧
    ((∀ e, e < s.elements → v.dst.read e = some (s.elemAt .src e)) ↔
      ∀ e, e < s.elements →
        (s.elemAt .src e).toNat * key.toNat % 256 = (s.elemAt .src e).toNat)

/-- 30_encoding.md R72: distinct encodings, the same `DST` and the same signal for every input: from
any two states with the same dimensions and the same elements. -/
def Obligations.EqualCommands : Prop :=
  ∀ (s₁ s₂ : State) (key : Key) (i j : Instr),
    (i = .ixfAdd key ∧ j = .xfSub key) ∨ (i = .ixfSub key ∧ j = .xfAdd key) ∨
      (i = .ixfXor key ∧ j = .xfXor key) →
    s₁.Ready → s₂.Ready → s₁.height = s₂.height → s₁.width = s₂.width →
    s₁.channels = s₂.channels →
    (∀ e, e < s₁.elements → s₁.elemAt .src e = s₂.elemAt .src e) →
    encode i ≠ encode j ∧ ∃ t u, exec i s₁ = .next t ∧ exec j s₂ = .next u ∧
      (∀ e, e < s₁.elements → t.dst.read e = u.dst.read e) ∧ t.signal = u.signal

/-- 42_modular_transform.md R118: Add, Subtract and Xor are one-to-one for every key, Multiply exactly
for the odd keys; with the key `2^t·m`, `m` odd, `1 ≤ t ≤ 7`, results agree exactly for values that
agree modulo `2^(8−t)`, and with the key 0 every result is 0. -/
def Obligations.WhichCommandsAreOneToOne : Prop :=
  (∀ key : Key, Function.Injective (addMod · key) ∧ Function.Injective (subMod · key) ∧
    Function.Injective (xorKey · key) ∧
    (Function.Injective (mulMod · key) ↔ key.toNat % 2 = 1)) ∧
  (∀ (key : Key) (t m : Nat), 1 ≤ t → t ≤ 7 → m % 2 = 1 → key.toNat = 2 ^ t * m →
    ∀ v w : Elem, mulMod v key = mulMod w key ↔ v.toNat % 2 ^ (8 - t) = w.toNat % 2 ^ (8 - t)) ∧
  ∀ v : Elem, mulMod v 0 = 0

/-! ### The finer view (40_iteration_wrapper.md R80, R84 to R87) -/

/-- 40_iteration_wrapper.md R80: what the write to `CMD` does at the moment a command starts, and that
it has no meaning with `N > MAX_ELEMS`. -/
def Obligations.CommandStart : Prop :=
  ∀ (s : State) (w : CmdWord) (rest : List HostAction),
    s.view = .perPixel → s.state ≠ .busy → s.host = .writeReg 0 w.toNat :: rest →
    (s.elements ≤ s.params.maxElems → step s = .next { s with
      cmd := w, state := .busy, signal := .transformed, idxP := 0, host := rest }) ∧
    (s.params.maxElems < s.elements → step s = .refused .bufferTooLarge)

/-- 40_iteration_wrapper.md R84 and R85: a pixel step while a command runs, wherever the host lets it
step (which host actions do, and what they leave of its program, is the model's choice, log entry
5). -/
def Obligations.PixelStep : Prop :=
  ∀ (s : State) (left : List HostAction), s.state = .busy → s.idxP < s.pixels →
    s.HostWaits left →
    ∃ t, step s = .next t ∧ t.idxP = s.idxP + 1 ∧ t.state = .busy ∧ t.signal = s.signal ∧
      t.cmd = s.cmd ∧ t.host = left ∧ CommandFrame { s with dst := t.dst, host := left } t ∧
      (∀ c, c < s.channels → t.dst.read (s.idxP * s.channels + c) =
        some (pix (resolve s.cmd s.channels).mode (keyField s.cmd)
          (fun l => s.elemAt .src (s.idxP * s.channels + l)) c)) ∧
      ∀ off, off < s.idxP * s.channels ∨ s.idxP * s.channels + s.channels ≤ off →
        t.dst.read off = s.dst.read off

/-- 40_iteration_wrapper.md R86: the end step, wherever the host lets the command step (which host
actions do, and what they leave of its program, is the model's choice, log entry 5). -/
def Obligations.EndStep : Prop :=
  ∀ (s : State) (left : List HostAction), s.state = .busy → s.idxP = s.pixels →
    s.HostWaits left →
    ∃ t, step s = .next t ∧ t.state = .done ∧
      t.signal = (resolve s.cmd s.channels).signal ∧ t.cmd = s.cmd ∧ t.idxP = s.idxP ∧
      t.host = left ∧ CommandFrame (s.setHost left) t ∧ ∀ off, t.dst.read off = s.dst.read off

/-- 40_iteration_wrapper.md R86: a command takes exactly `P` pixel steps and one end step. Left alone,
a running command is still running, `n` pixels on, after `n` steps, and done after one step more
than there are pixels left. -/
def Obligations.CommandTakesItsPixelsAndOneStep : Prop :=
  ∀ s : State, s.state = .busy → s.idxP ≤ s.pixels → s.host = [] →
    (∀ n, n ≤ s.pixels - s.idxP → ∃ t, runSteps n s = .next t ∧ t.state = .busy ∧
      t.idxP = s.idxP + n) ∧
    ∃ t, runSteps (s.pixels - s.idxP + 1) s = .next t ∧ t.state = .done ∧ t.idxP = s.pixels ∧
      t.signal = (resolve s.cmd s.channels).signal

/-- 40_iteration_wrapper.md R87: the two views of a command agree. From a state where a command may
start, the start, the `P` pixel steps and the end step leave the state that the one atomic step
leaves, in every field. -/
def Obligations.TwoViewsAgree : Prop :=
  ∀ (s : State) (w : CmdWord) (rest : List HostAction),
    s.view = .perPixel → s.Ready → s.host = .writeReg 0 w.toNat :: .awaitDone :: rest →
    ∃ t, step { s with view := .atomic } = .next t ∧ t.state = .done ∧
      runSteps (s.pixels + 2) s = .next { t with view := .perPixel }

/-! ### The host (70_reset_and_hazards.md, 10_state.md) -/

/-- 70_reset_and_hazards.md R178 and 93 U3: while a command runs, a host access other than a `STATUS`
read and a reset has no step. -/
def Obligations.NoHostAccessWhileBusy : Prop :=
  ∀ (s : State) (a : HostAction) (rest : List HostAction), s.state = .busy →
    s.host = a :: rest → a.needsIdle = true → step s = .refused .accessWhileBusy

/-- 10_state.md R18: `STATUS` is read at any time, without a side effect; the byte has `STATE` in bits
1:0, `SIGNAL` in bits 3:2 and 0 in bits 7:4, with the codes of R19 and R20. -/
def Obligations.StatusReadAtAnyTime : Prop :=
  ∀ (s : State) (rest : List HostAction), s.host = .readReg 4 :: rest →
    step s = .next { s with
      host := rest
      recorded := .reg 4
        (4 * (match s.signal with
          | .transformed => 0
          | .unsupportedFormat => 1
          | .notInvertible => 2
          | .invalidParameter => 3) +
        (match s.state with
          | .idle => 0
          | .busy => 1
          | .done => 2)) :: s.recorded }

/-- 10_state.md R13 to R16: a parameter register and `CMD` read as their value, without a side
effect. -/
def Obligations.RegisterReadsGiveTheValue : Prop :=
  ∀ (s : State) (n : Nat) (rest : List HostAction), s.state ≠ .busy → n < 4 →
    s.host = .readReg n :: rest →
    step s = .next { s with
      host := rest
      recorded := .reg n (if n = 0 then s.cmd.toNat else if n = 1 then s.height
        else if n = 2 then s.width else s.channels) :: s.recorded }

/-- 10_state.md R13 to R15: a write of a parameter register stores exactly the value written. -/
def Obligations.ParameterRegistersStoreTheValue : Prop :=
  ∀ (s : State) (v : Nat) (rest : List HostAction), s.state ≠ .busy →
    (v < 2 ^ s.params.dimBits → s.host = .writeReg 1 v :: rest →
      step s = .next { s with height := v, host := rest }) ∧
    (v < 2 ^ s.params.dimBits → s.host = .writeReg 2 v :: rest →
      step s = .next { s with width := v, host := rest }) ∧
    (v < 2 ^ s.params.chBits → s.host = .writeReg 3 v :: rest →
      step s = .next { s with channels := v, host := rest })

/-- 10_state.md R18: a host write to register number 4 changes nothing. -/
def Obligations.StatusWriteChangesNothing : Prop :=
  ∀ (s : State) (v : Nat) (rest : List HostAction), s.state ≠ .busy → v < 256 →
    s.host = .writeReg 4 v :: rest → step s = .next (s.setHost rest)

/-- 10_state.md R22, 93 U4: register numbers 5 and above do not exist. -/
def Obligations.NoRegisterAboveFour : Prop :=
  ∀ (s : State) (n v : Nat) (rest : List HostAction), 5 ≤ n →
    (s.host = .readReg n :: rest ∨ s.host = .writeReg n v :: rest) →
    step s = .refused (.noSuchRegister n)

/-- 70_reset_and_hazards.md R176: the host writes one element; nothing else of either space changes;
past `MAX_ELEMS` there is no element (the fault is the model's, log entry 6). -/
def Obligations.HostWritesOneElement : Prop :=
  ∀ (s : State) (space : Space) (off : Nat) (v : Elem) (rest : List HostAction),
    s.state ≠ .busy → s.host = .writeElem space off v :: rest →
    (off < s.params.maxElems → ∃ t, step s = .next t ∧ (t.buffer space).read off = some v ∧
      (∀ space' off', (space', off') ≠ (space, off) →
        (t.buffer space').read off' = (s.buffer space').read off') ∧
      t.state = s.state ∧ t.signal = s.signal ∧ t.cmd = s.cmd ∧ t.idxP = s.idxP ∧
      t.height = s.height ∧ t.width = s.width ∧ t.channels = s.channels ∧ t.host = rest) ∧
    (s.params.maxElems ≤ off → step s = .fault (.noSuchElement space off))

/-- 70_reset_and_hazards.md R176 and 93 U1: the host reads what was last written, or, where nothing
has been written since reset, a free value of this draw (log entry 4); the next read draws afresh;
nothing of the PXU changes. -/
def Obligations.HostReadsOneElement : Prop :=
  ∀ (s : State) (space : Space) (off : Nat) (rest : List HostAction),
    s.state ≠ .busy → off < s.params.maxElems → s.host = .readElem space off :: rest →
    step s = .next { s with
      host := rest
      recorded := .elem space off (match (s.buffer space).read off with
        | some v => v
        | none => Config.freeElem s.draws off) :: s.recorded
      draws := s.draws + 1 }

/-- 70_reset_and_hazards.md R177: `MOVE` makes the result of one command the input of the next. -/
def Obligations.MoveCopiesDstToSrc : Prop :=
  ∀ (s : State) (rest : List HostAction), s.Ready → s.host = .move :: rest →
    ∃ t, step s = .next t ∧ t.dst = s.dst ∧
      (∀ e v, e < s.elements → s.dst.read e = some v → t.src.read e = some v) ∧
      (∀ off, s.elements ≤ off → t.src.read off = s.src.read off) ∧
      t.state = s.state ∧ t.signal = s.signal ∧ t.cmd = s.cmd ∧ t.idxP = s.idxP ∧
      t.height = s.height ∧ t.width = s.width ∧ t.channels = s.channels ∧ t.host = rest

/-- 70_reset_and_hazards.md R170: a reset, at any time, also during a command. -/
def Obligations.ResetClearsThePxu : Prop :=
  ∀ (s : State) (rest : List HostAction), s.host = .reset :: rest →
    ∃ t, step s = .next t ∧ t.cmd = 0 ∧ t.height = 0 ∧ t.width = 0 ∧ t.channels = 0 ∧
      t.state = .idle ∧ t.signal = .transformed ∧ t.statusByte = 0 ∧ t.idxP = 0 ∧
      (∀ space off, (t.buffer space).read off = none) ∧ t.params = s.params ∧ t.host = rest

/-- 10_state.md R32: the values after reset. -/
def Obligations.ResetStateValues : Prop :=
  State.reset.cmd = 0x0000 ∧ State.reset.height = 0 ∧ State.reset.width = 0 ∧
    State.reset.channels = 0 ∧ State.reset.state = .idle ∧ State.reset.signal = .transformed ∧
    State.reset.statusByte = 0x00 ∧ State.reset.idxP = 0 ∧
    ∀ space off, (State.reset.buffer space).read off = none

/-- 70_reset_and_hazards.md R171, 40_iteration_wrapper.md R86: with the host's program done and no
command running the PXU keeps all its state, and so it does where the host only waits (the step that
changes nothing, and the host's waiting, are log entry 5's). -/
def Obligations.IdlePxuWaits : Prop :=
  ∀ s : State, (s.RunOver → step s = .next s) ∧
    ∀ rest, s.state ≠ .busy → s.host = .wait :: rest ∨ s.host = .awaitDone :: rest →
      step s = .next (s.setHost rest)

/-! ### Whole-machine rules -/

/-- 10_state.md R26: `SRC` changes only by the host: its element writes, `MOVE` and the reset. No
command, and no step of a running command, changes it. -/
def Obligations.OnlyTheHostChangesSrc : Prop :=
  ∀ s t : State, step s = .next t → t.src ≠ s.src →
    ∃ a rest, s.host = a :: rest ∧
      (a = .move ∨ a = .reset ∨ ∃ off v, a = .writeElem .src off v)

/-- 10_state.md R21: `STATUS` keeps its value until the next command starts or until reset; it changes
besides only by a running command's end. -/
def Obligations.StatusKeepsItsValue : Prop :=
  ∀ s t : State, step s = .next t → t.statusByte ≠ s.statusByte →
    (s.state = .busy ∧ t.state = .done) ∨
    ∃ a rest, s.host = a :: rest ∧ (a = .reset ∨ ∃ v, a = .writeReg 0 v)

/-- 10_state.md R13 to R15: no command writes a dimension register; only the host's own write of that
register, and the reset, change it. -/
def Obligations.OnlyTheHostChangesDimensions : Prop :=
  ∀ s t : State, step s = .next t →
    (t.height ≠ s.height → ∃ rest, s.host = .reset :: rest ∨ ∃ v, s.host = .writeReg 1 v :: rest) ∧
    (t.width ≠ s.width → ∃ rest, s.host = .reset :: rest ∨ ∃ v, s.host = .writeReg 2 v :: rest) ∧
    (t.channels ≠ s.channels →
      ∃ rest, s.host = .reset :: rest ∨ ∃ v, s.host = .writeReg 3 v :: rest)

/-- 10_state.md R30: the parameters are not state: no step changes them, nor the model's view (log
entries 1 and 3). -/
def Obligations.ParametersNeverChange : Prop :=
  ∀ s t : State, step s = .next t → t.params = s.params ∧ t.view = s.view

/-- Every step keeps the invariant of Safety.lean: legal parameters, each register within its width,
both memories in canonical form and inside `MAX_ELEMS`, and what `IDLE`, `BUSY` and `DONE` say of
`CMD`, `SIGNAL` and `IDX_P`. -/
def Obligations.EveryStepKeepsTheInvariant : Prop :=
  ∀ s t : State, s.Inv → step s = .next t → t.Inv

/-- The state after reset meets the invariant of Safety.lean (its parameters are log entry 1's). -/
def Obligations.ResetMeetsTheInvariant : Prop := State.reset.Inv

/-- 60_exceptions.md R156: two PXUs do not affect one another: stepping one and then the other gives
the same in either order (the list of PXUs is the model's form, log entry 11). -/
def Obligations.UnitsShareNothing : Prop :=
  ∀ (sys a b : System) (n m : Nat), n ≠ m → stepUnit sys n = .next a → stepUnit sys m = .next b →
    ∃ both, stepUnit a m = .next both ∧ stepUnit b n = .next both ∧
      ∀ k, k ≠ n → k ≠ m → both[k]? = sys[k]?

/-! ### The host's side of a command (30_encoding.md R64, R70) -/

/-- 30_encoding.md R64: reducing a key modulo 256 before the write gives the results of the key
itself; for Xor the key is its low 8 bits. -/
def Obligations.KeyReductionIsHarmless : Prop :=
  ∀ (v : Elem) (k : Int),
    ((hostKey k).toNat : Int) = k % 256 ∧
    ((addMod v (hostKey k)).toNat : Int) = (v.toNat + k) % 256 ∧
    ((subMod v (hostKey k)).toNat : Int) = (v.toNat - k) % 256 ∧
    ((mulMod v (hostKey k)).toNat : Int) = (v.toNat * k) % 256

/-- 30_encoding.md R70: a keyed line with a key from 0 to 255 is assembled to its word, any other key
is an error; an unkeyed line is assembled with `KEY` = 0. -/
def Obligations.AssembledLineDecodesToItsCommand : Prop :=
  ∀ (op : Mnemonic) (k : Int),
    (op.keyed = true → 0 ≤ k → k ≤ 255 → ∃ (w : CmdWord) (key : Key),
      assemble ⟨op, some k⟩ = some w ∧ decode w = .command (mnemonicInstr op key) ∧
      (key.toNat : Int) = k) ∧
    (op.keyed = true → k < 0 ∨ 255 < k → assemble ⟨op, some k⟩ = none) ∧
    (op.keyed = false → ∃ w, assemble ⟨op, none⟩ = some w ∧
      decode w = .command (mnemonicInstr op 0))
end

