-- ==== Sys2Proof/Laws/Arithmetic.lean ====
section
/-! SUPPORT. The arithmetic of 42_modular_transform.md R112 as numbers and as 8-bit words. -/

namespace Sys2Proof.Machine

open Sys2Proof

theorem reduce256_toNat (a : Int) : ((reduce256 a).toNat : Int) = a % 256 := by
  rw [reduce256, BitVec.toNat_ofInt]
  have : (0 : Int) ≤ a % 256 := Int.emod_nonneg a (by decide)
  simp [this]

theorem addMod_toNat (v : Elem) (k : Key) : (addMod v k).toNat = (v.toNat + k.toNat) % 256 := by
  have := reduce256_toNat (v.toNat + k.toNat)
  simp only [addMod]; omega

theorem subMod_toNat (v : Elem) (k : Key) :
    ((subMod v k).toNat : Int) = ((v.toNat : Int) - k.toNat) % 256 :=
  reduce256_toNat _

theorem mulMod_toNat (v : Elem) (k : Key) : (mulMod v k).toNat = v.toNat * k.toNat % 256 := by
  have := reduce256_toNat (v.toNat * k.toNat)
  rw [← Nat.cast_mul] at this
  simp only [mulMod, ← Nat.cast_mul]; omega

/-- The low 8 bits of the sum are the reduced sum (42_modular_transform.md R112). -/
theorem addMod_eq (v : Elem) (k : Key) : addMod v k = v + k := by
  apply BitVec.eq_of_toNat_eq
  rw [addMod_toNat, BitVec.toNat_add]

theorem subMod_eq (v : Elem) (k : Key) : subMod v k = v - k := by
  apply BitVec.eq_of_toNat_eq
  have h := subMod_toNat v k
  have hv := v.isLt
  have hk := k.isLt
  rw [BitVec.toNat_sub]
  omega

theorem mulMod_eq (v : Elem) (k : Key) : mulMod v k = v * k := by
  apply BitVec.eq_of_toNat_eq
  rw [mulMod_toNat, BitVec.toNat_mul]

theorem subMod_addMod (v : Elem) (k : Key) : subMod (addMod v k) k = v := by
  rw [subMod_eq, addMod_eq, BitVec.add_sub_cancel]

theorem addMod_subMod (v : Elem) (k : Key) : addMod (subMod v k) k = v := by
  rw [subMod_eq, addMod_eq, BitVec.sub_add_cancel]

theorem xorKey_xorKey (v : Elem) (k : Key) : xorKey (xorKey v k) k = v := by
  simp [xorKey]

/-- A swap of two lanes undoes itself. -/
theorem swap_swap (a b : Nat) (k k' : Key) (inp : Nat → Elem) (c : Nat) :
    pix (.swap a b) k (pix (.swap a b) k' inp) c = inp c := by
  simp only [pix]
  split
  · subst_vars
    split
    · subst_vars; rfl
    · simp
  · split <;> simp_all

end Sys2Proof.Machine
end

