-- ==== Sys2Proof/Laws/Encoding.lean ====
section
/-! SUPPORT. The four fields of a packed word, and a word packed from its own fields. -/

namespace Sys2Proof

@[simp] theorem keyField_packWord (k : Key) (u s : BitVec 2) : keyField (packWord k u s) = k := by
  ext i hi
  simp only [keyField, packWord, BitVec.getElem_extractLsb', BitVec.getLsbD_append]
  rw [if_neg (by omega), if_neg (by omega), if_neg (by omega), BitVec.getLsbD_eq_getElem (by omega)]
  congr 1; omega

@[simp] theorem rsvField_packWord (k : Key) (u s : BitVec 2) : rsvField (packWord k u s) = 0 := by
  ext i hi
  simp only [rsvField, packWord, BitVec.getElem_extractLsb', BitVec.getLsbD_append]
  rw [if_neg (by omega), if_neg (by omega), if_pos (by omega)]
  simp

@[simp] theorem unitField_packWord (k : Key) (u s : BitVec 2) : unitField (packWord k u s) = u := by
  ext i hi
  simp only [unitField, packWord, BitVec.getElem_extractLsb', BitVec.getLsbD_append]
  rw [if_neg (by omega), if_pos (by omega), BitVec.getLsbD_eq_getElem (by omega)]
  congr 1; omega

@[simp] theorem selField_packWord (k : Key) (u s : BitVec 2) : selField (packWord k u s) = s := by
  ext i hi
  simp only [selField, packWord, BitVec.getElem_extractLsb', BitVec.getLsbD_append]
  rw [if_pos (by omega), BitVec.getLsbD_eq_getElem (by omega)]
  congr 1; omega

/-- A word with `RSV` = 0 is the word packed from its own fields. -/
theorem packWord_fields (w : CmdWord) (h : rsvField w = 0) :
    packWord (keyField w) (unitField w) (selField w) = w := by
  have rsv : ∀ i, i < 4 → w.getLsbD (4 + i) = false := by
    intro i hi
    have := congrArg (fun v : BitVec 4 => v.getLsbD i) h
    simpa [rsvField, hi] using this
  apply BitVec.eq_of_getLsbD_eq
  intro i hi
  simp only [packWord, keyField, unitField, selField, BitVec.getLsbD_append,
    BitVec.getLsbD_extractLsb']
  split
  · simp_all
  · split
    · simp only [show i - 2 < 2 by omega, decide_true, Bool.true_and]; congr 1; omega
    · split
      · have := rsv (i - 4) (by omega)
        rw [show 4 + (i - 4) = i by omega] at this
        simp [this]
      · simp only [show i - 2 - 2 - 4 < 8 by omega, decide_true, Bool.true_and]; congr 1; omega

/-- Every command's word carries the command's `KEY` byte. -/
@[simp] theorem keyField_encode_keyed (k : Key) :
    keyField (encode (.xfAdd k)) = k ∧ keyField (encode (.xfSub k)) = k ∧
    keyField (encode (.xfXor k)) = k ∧ keyField (encode (.xfMul k)) = k ∧
    keyField (encode (.ixfAdd k)) = k ∧ keyField (encode (.ixfSub k)) = k ∧
    keyField (encode (.ixfXor k)) = k := by
  simp [encode]

end Sys2Proof
end

