-- ==== Sys2Proof/Laws/Memory.lean ====
section
/-! SUPPORT. What the memory operations do: read after write, what a row of writes and a whole pass
over the pixels leave, and that every operation keeps the canonical form. -/

namespace Sys2Proof.Machine

open Sys2Proof

@[simp] theorem Memory.read_nil (a : Nat) : Memory.read [] a = none := rfl

theorem Memory.read_write (m : Memory) (a : Nat) (v : Elem) (b : Nat) :
    (m.write a v).read b = if b = a then some v else m.read b := by
  induction m with
  | nil => simp [Memory.write, Memory.read]
  | cons cell rest ih =>
    obtain ⟨c, u⟩ := cell
    simp only [Memory.write]
    split
    · simp [Memory.read]
    · split
      · subst_vars
        by_cases h : b = c <;> simp [Memory.read, h]
      · by_cases h : b = c
        · subst h
          simp [Memory.read, show b ≠ a by omega]
        · simp [Memory.read, h, ih]

theorem Memory.read_write_same (m : Memory) (a : Nat) (v : Elem) : (m.write a v).read a = some v := by
  simp [Memory.read_write]

theorem Memory.read_write_other (m : Memory) (a : Nat) (v : Elem) (b : Nat) (h : b ≠ a) :
    (m.write a v).read b = m.read b := by
  simp [Memory.read_write, h]

/-- A row of writes: inside the row the written values, outside it what was there. -/
theorem Memory.read_fill (m : Memory) (base : Nat) (f : Nat → Elem) (n a : Nat) :
    (m.fill base f n).read a =
      if base ≤ a ∧ a < base + n then some (f (a - base)) else m.read a := by
  induction n with
  | zero => simp [Memory.fill]
  | succ n ih =>
    simp only [Memory.fill, Memory.read_write, ih]
    by_cases h : a = base + n
    · subst h; simp
    · by_cases h2 : base ≤ a ∧ a < base + n
      · simp [h, h2, show a < base + (n + 1) by omega]
      · simp [h, h2, show ¬ (base ≤ a ∧ a < base + (n + 1)) by omega]

/-- A pass over `n` pixels: below `n·C` the lane the offset names, above it what was there. -/
theorem Memory.read_writePixels (m : Memory) (channels : Nat) (out : Nat → Nat → Elem) (n a : Nat) :
    (m.writePixels channels out n).read a =
      if a < n * channels then some (out (a / channels) (a % channels)) else m.read a := by
  induction n with
  | zero => simp [Memory.writePixels]
  | succ n ih =>
    simp only [Memory.writePixels, Memory.read_fill, ih, pixelOffset, Nat.add_zero]
    have hs : (n + 1) * channels = n * channels + channels := Nat.succ_mul n channels
    by_cases h : n * channels ≤ a ∧ a < n * channels + channels
    · obtain ⟨hlo, hhi⟩ := h
      have hq : a / channels = n := by
        rw [Nat.div_eq_of_lt_le]
        · exact hlo
        · rw [hs]; exact hhi
      have hr : a % channels = a - n * channels := by
        have := Nat.mod_add_div a channels
        rw [hq, Nat.mul_comm] at this
        omega
      rw [if_pos ⟨hlo, hhi⟩, if_pos (by omega), hq, hr]
    · rw [if_neg h]
      by_cases h2 : a < n * channels
      · rw [if_pos h2, if_pos (by omega)]
      · rw [if_neg h2, if_neg (by omega)]

theorem Memory.risesFrom_mono {m : Memory} {lo lo' : Nat} (hle : lo' ≤ lo)
    (h : m.risesFrom lo = true) : m.risesFrom lo' = true := by
  cases m with
  | nil => rfl
  | cons cell rest =>
    simp only [Memory.risesFrom, Bool.and_eq_true, decide_eq_true_eq] at h ⊢
    exact ⟨by omega, h.2⟩

theorem Memory.risesFrom_write {m : Memory} {lo a : Nat} (v : Elem) (ha : lo ≤ a)
    (h : m.risesFrom lo = true) : (m.write a v).risesFrom lo = true := by
  induction m generalizing lo with
  | nil => simp [Memory.write, Memory.risesFrom, ha]
  | cons cell rest ih =>
    obtain ⟨b, u⟩ := cell
    simp only [Memory.risesFrom, Bool.and_eq_true, decide_eq_true_eq] at h
    simp only [Memory.write]
    split
    · simp only [Memory.risesFrom, Bool.and_eq_true, decide_eq_true_eq]
      exact ⟨ha, by omega, h.2⟩
    · split
      · subst_vars
        simp only [Memory.risesFrom, Bool.and_eq_true, decide_eq_true_eq]
        exact h
      · simp only [Memory.risesFrom, Bool.and_eq_true, decide_eq_true_eq]
        exact ⟨h.1, ih (by omega) h.2⟩

theorem Memory.wf_nil : Memory.wf [] = true := rfl

theorem Memory.wf_write {m : Memory} (a : Nat) (v : Elem) (h : m.wf = true) :
    (m.write a v).wf = true :=
  Memory.risesFrom_write v (Nat.zero_le a) h

theorem Memory.wf_fill {m : Memory} (base : Nat) (f : Nat → Elem) (n : Nat) (h : m.wf = true) :
    (m.fill base f n).wf = true := by
  induction n with
  | zero => exact h
  | succ n ih => exact Memory.wf_write _ _ ih

theorem Memory.wf_writePixels {m : Memory} (channels : Nat) (out : Nat → Nat → Elem) (n : Nat)
    (h : m.wf = true) : (m.writePixels channels out n).wf = true := by
  induction n with
  | zero => exact h
  | succ n ih => exact Memory.wf_fill _ _ _ ih

theorem Memory.read_below {m : Memory} {lo a : Nat} (h : m.risesFrom lo = true) (ha : a < lo) :
    m.read a = none := by
  induction m generalizing lo with
  | nil => rfl
  | cons cell rest ih =>
    obtain ⟨b, u⟩ := cell
    simp only [Memory.risesFrom, Bool.and_eq_true, decide_eq_true_eq] at h
    simp only [Memory.read, show a ≠ b by omega, if_false]
    exact ih h.2 (by omega)

/-- The canonical form is canonical: memories that read the same everywhere are the same list. -/
theorem Memory.ext_of_risesFrom {m n : Memory} {lo : Nat} (hm : m.risesFrom lo = true)
    (hn : n.risesFrom lo = true) (h : ∀ a, m.read a = n.read a) : m = n := by
  induction m generalizing n lo with
  | nil =>
    cases n with
    | nil => rfl
    | cons cell rest => simpa [Memory.read] using h cell.1
  | cons cell rest ih =>
    obtain ⟨b, u⟩ := cell
    cases n with
    | nil => simpa [Memory.read] using h b
    | cons cell' rest' =>
      obtain ⟨c, v⟩ := cell'
      simp only [Memory.risesFrom, Bool.and_eq_true, decide_eq_true_eq] at hm hn
      have hbc : b = c := by
        rcases Nat.lt_trichotomy b c with hlt | heq | hlt
        · have h1 := h b
          simp [Memory.read, show b ≠ c by omega, Memory.read_below hn.2 (show b < c + 1 by omega)] at h1
        · exact heq
        · have h1 := h c
          simp [Memory.read, show c ≠ b by omega, Memory.read_below hm.2 (show c < b + 1 by omega)] at h1
      subst hbc
      have huv : u = v := by simpa [Memory.read] using h b
      subst huv
      have htail : rest = rest' := by
        refine ih hm.2 hn.2 fun a => ?_
        by_cases hab : a = b
        · subst hab
          rw [Memory.read_below hm.2 (by omega), Memory.read_below hn.2 (by omega)]
        · simpa [Memory.read, hab] using h a
      rw [htail]

theorem Memory.ext_of_wf {m n : Memory} (hm : m.wf = true) (hn : n.wf = true)
    (h : ∀ a, m.read a = n.read a) : m = n :=
  Memory.ext_of_risesFrom hm hn h

end Sys2Proof.Machine
end

