-- ==== Sys2Proof/Laws/State.lean ====
section
/-! SUPPORT. Field by field, what each named update of the state leaves: one lemma per field per
update, true by definition. -/

namespace Sys2Proof.Machine

open Sys2Proof

@[simp] theorem State.nextDraw_params (s : State) : s.nextDraw.params = s.params := rfl
@[simp] theorem State.nextDraw_view (s : State) : s.nextDraw.view = s.view := rfl
@[simp] theorem State.nextDraw_cmd (s : State) : s.nextDraw.cmd = s.cmd := rfl
@[simp] theorem State.nextDraw_height (s : State) : s.nextDraw.height = s.height := rfl
@[simp] theorem State.nextDraw_width (s : State) : s.nextDraw.width = s.width := rfl
@[simp] theorem State.nextDraw_channels (s : State) : s.nextDraw.channels = s.channels := rfl
@[simp] theorem State.nextDraw_state (s : State) : s.nextDraw.state = s.state := rfl
@[simp] theorem State.nextDraw_signal (s : State) : s.nextDraw.signal = s.signal := rfl
@[simp] theorem State.nextDraw_idxP (s : State) : s.nextDraw.idxP = s.idxP := rfl
@[simp] theorem State.nextDraw_src (s : State) : s.nextDraw.src = s.src := rfl
@[simp] theorem State.nextDraw_dst (s : State) : s.nextDraw.dst = s.dst := rfl
@[simp] theorem State.nextDraw_host (s : State) : s.nextDraw.host = s.host := rfl
@[simp] theorem State.nextDraw_recorded (s : State) : s.nextDraw.recorded = s.recorded := rfl
@[simp] theorem State.nextDraw_draws (s : State) : s.nextDraw.draws = s.draws + 1 := rfl

@[simp] theorem State.record_params (s : State) (r : Reading) : (s.record r).params = s.params := rfl
@[simp] theorem State.record_view (s : State) (r : Reading) : (s.record r).view = s.view := rfl
@[simp] theorem State.record_cmd (s : State) (r : Reading) : (s.record r).cmd = s.cmd := rfl
@[simp] theorem State.record_height (s : State) (r : Reading) : (s.record r).height = s.height := rfl
@[simp] theorem State.record_width (s : State) (r : Reading) : (s.record r).width = s.width := rfl
@[simp] theorem State.record_channels (s : State) (r : Reading) : (s.record r).channels = s.channels := rfl
@[simp] theorem State.record_state (s : State) (r : Reading) : (s.record r).state = s.state := rfl
@[simp] theorem State.record_signal (s : State) (r : Reading) : (s.record r).signal = s.signal := rfl
@[simp] theorem State.record_idxP (s : State) (r : Reading) : (s.record r).idxP = s.idxP := rfl
@[simp] theorem State.record_src (s : State) (r : Reading) : (s.record r).src = s.src := rfl
@[simp] theorem State.record_dst (s : State) (r : Reading) : (s.record r).dst = s.dst := rfl
@[simp] theorem State.record_host (s : State) (r : Reading) : (s.record r).host = s.host := rfl
@[simp] theorem State.record_recorded (s : State) (r : Reading) : (s.record r).recorded = r :: s.recorded := rfl
@[simp] theorem State.record_draws (s : State) (r : Reading) : (s.record r).draws = s.draws := rfl

@[simp] theorem State.setHost_params (s : State) (rest : List HostAction) : (s.setHost rest).params = s.params := rfl
@[simp] theorem State.setHost_view (s : State) (rest : List HostAction) : (s.setHost rest).view = s.view := rfl
@[simp] theorem State.setHost_cmd (s : State) (rest : List HostAction) : (s.setHost rest).cmd = s.cmd := rfl
@[simp] theorem State.setHost_height (s : State) (rest : List HostAction) : (s.setHost rest).height = s.height := rfl
@[simp] theorem State.setHost_width (s : State) (rest : List HostAction) : (s.setHost rest).width = s.width := rfl
@[simp] theorem State.setHost_channels (s : State) (rest : List HostAction) : (s.setHost rest).channels = s.channels := rfl
@[simp] theorem State.setHost_state (s : State) (rest : List HostAction) : (s.setHost rest).state = s.state := rfl
@[simp] theorem State.setHost_signal (s : State) (rest : List HostAction) : (s.setHost rest).signal = s.signal := rfl
@[simp] theorem State.setHost_idxP (s : State) (rest : List HostAction) : (s.setHost rest).idxP = s.idxP := rfl
@[simp] theorem State.setHost_src (s : State) (rest : List HostAction) : (s.setHost rest).src = s.src := rfl
@[simp] theorem State.setHost_dst (s : State) (rest : List HostAction) : (s.setHost rest).dst = s.dst := rfl
@[simp] theorem State.setHost_host (s : State) (rest : List HostAction) : (s.setHost rest).host = rest := rfl
@[simp] theorem State.setHost_recorded (s : State) (rest : List HostAction) : (s.setHost rest).recorded = s.recorded := rfl
@[simp] theorem State.setHost_draws (s : State) (rest : List HostAction) : (s.setHost rest).draws = s.draws := rfl

@[simp] theorem State.afterMove_params (s : State) : s.afterMove.params = s.params := rfl
@[simp] theorem State.afterMove_view (s : State) : s.afterMove.view = s.view := rfl
@[simp] theorem State.afterMove_cmd (s : State) : s.afterMove.cmd = s.cmd := rfl
@[simp] theorem State.afterMove_height (s : State) : s.afterMove.height = s.height := rfl
@[simp] theorem State.afterMove_width (s : State) : s.afterMove.width = s.width := rfl
@[simp] theorem State.afterMove_channels (s : State) : s.afterMove.channels = s.channels := rfl
@[simp] theorem State.afterMove_state (s : State) : s.afterMove.state = s.state := rfl
@[simp] theorem State.afterMove_signal (s : State) : s.afterMove.signal = s.signal := rfl
@[simp] theorem State.afterMove_idxP (s : State) : s.afterMove.idxP = s.idxP := rfl
@[simp] theorem State.afterMove_src (s : State) : s.afterMove.src = s.src.fill 0 (s.elemAt .dst) s.elements := rfl
@[simp] theorem State.afterMove_dst (s : State) : s.afterMove.dst = s.dst := rfl
@[simp] theorem State.afterMove_host (s : State) : s.afterMove.host = s.host := rfl
@[simp] theorem State.afterMove_recorded (s : State) : s.afterMove.recorded = s.recorded := rfl
@[simp] theorem State.afterMove_draws (s : State) : s.afterMove.draws = s.draws + 1 := rfl

@[simp] theorem State.clear_params (s : State) : s.clear.params = s.params := rfl
@[simp] theorem State.clear_view (s : State) : s.clear.view = s.view := rfl
@[simp] theorem State.clear_cmd (s : State) : s.clear.cmd = 0 := rfl
@[simp] theorem State.clear_height (s : State) : s.clear.height = 0 := rfl
@[simp] theorem State.clear_width (s : State) : s.clear.width = 0 := rfl
@[simp] theorem State.clear_channels (s : State) : s.clear.channels = 0 := rfl
@[simp] theorem State.clear_state (s : State) : s.clear.state = .idle := rfl
@[simp] theorem State.clear_signal (s : State) : s.clear.signal = .transformed := rfl
@[simp] theorem State.clear_idxP (s : State) : s.clear.idxP = 0 := rfl
@[simp] theorem State.clear_src (s : State) : s.clear.src = [] := rfl
@[simp] theorem State.clear_dst (s : State) : s.clear.dst = [] := rfl
@[simp] theorem State.clear_host (s : State) : s.clear.host = s.host := rfl
@[simp] theorem State.clear_recorded (s : State) : s.clear.recorded = s.recorded := rfl
@[simp] theorem State.clear_draws (s : State) : s.clear.draws = s.draws + 1 := rfl

@[simp] theorem State.afterStart_params (s : State) (w : CmdWord) : (s.afterStart w).params = s.params := rfl
@[simp] theorem State.afterStart_view (s : State) (w : CmdWord) : (s.afterStart w).view = s.view := rfl
@[simp] theorem State.afterStart_cmd (s : State) (w : CmdWord) : (s.afterStart w).cmd = w := rfl
@[simp] theorem State.afterStart_height (s : State) (w : CmdWord) : (s.afterStart w).height = s.height := rfl
@[simp] theorem State.afterStart_width (s : State) (w : CmdWord) : (s.afterStart w).width = s.width := rfl
@[simp] theorem State.afterStart_channels (s : State) (w : CmdWord) : (s.afterStart w).channels = s.channels := rfl
@[simp] theorem State.afterStart_state (s : State) (w : CmdWord) : (s.afterStart w).state = .busy := rfl
@[simp] theorem State.afterStart_signal (s : State) (w : CmdWord) : (s.afterStart w).signal = .transformed := rfl
@[simp] theorem State.afterStart_idxP (s : State) (w : CmdWord) : (s.afterStart w).idxP = 0 := rfl
@[simp] theorem State.afterStart_src (s : State) (w : CmdWord) : (s.afterStart w).src = s.src := rfl
@[simp] theorem State.afterStart_dst (s : State) (w : CmdWord) : (s.afterStart w).dst = s.dst := rfl
@[simp] theorem State.afterStart_host (s : State) (w : CmdWord) : (s.afterStart w).host = s.host := rfl
@[simp] theorem State.afterStart_recorded (s : State) (w : CmdWord) : (s.afterStart w).recorded = s.recorded := rfl
@[simp] theorem State.afterStart_draws (s : State) (w : CmdWord) : (s.afterStart w).draws = s.draws := rfl

@[simp] theorem State.afterCommand_params (s : State) (w : CmdWord) (plan : Plan) : (s.afterCommand w plan).params = s.params := rfl
@[simp] theorem State.afterCommand_view (s : State) (w : CmdWord) (plan : Plan) : (s.afterCommand w plan).view = s.view := rfl
@[simp] theorem State.afterCommand_cmd (s : State) (w : CmdWord) (plan : Plan) : (s.afterCommand w plan).cmd = w := rfl
@[simp] theorem State.afterCommand_height (s : State) (w : CmdWord) (plan : Plan) : (s.afterCommand w plan).height = s.height := rfl
@[simp] theorem State.afterCommand_width (s : State) (w : CmdWord) (plan : Plan) : (s.afterCommand w plan).width = s.width := rfl
@[simp] theorem State.afterCommand_channels (s : State) (w : CmdWord) (plan : Plan) : (s.afterCommand w plan).channels = s.channels := rfl
@[simp] theorem State.afterCommand_state (s : State) (w : CmdWord) (plan : Plan) : (s.afterCommand w plan).state = .done := rfl
@[simp] theorem State.afterCommand_signal (s : State) (w : CmdWord) (plan : Plan) : (s.afterCommand w plan).signal = plan.signal := rfl
@[simp] theorem State.afterCommand_idxP (s : State) (w : CmdWord) (plan : Plan) : (s.afterCommand w plan).idxP = s.pixels := rfl
@[simp] theorem State.afterCommand_src (s : State) (w : CmdWord) (plan : Plan) : (s.afterCommand w plan).src = s.src := rfl
@[simp] theorem State.afterCommand_dst (s : State) (w : CmdWord) (plan : Plan) : (s.afterCommand w plan).dst =
    s.dst.writePixels s.channels (s.laneOut plan.mode (keyField w)) s.pixels := rfl
@[simp] theorem State.afterCommand_host (s : State) (w : CmdWord) (plan : Plan) : (s.afterCommand w plan).host = s.host := rfl
@[simp] theorem State.afterCommand_recorded (s : State) (w : CmdWord) (plan : Plan) : (s.afterCommand w plan).recorded = s.recorded := rfl
@[simp] theorem State.afterCommand_draws (s : State) (w : CmdWord) (plan : Plan) : (s.afterCommand w plan).draws = s.draws + 1 := rfl

@[simp] theorem State.afterPixel_params (s : State) : s.afterPixel.params = s.params := rfl
@[simp] theorem State.afterPixel_view (s : State) : s.afterPixel.view = s.view := rfl
@[simp] theorem State.afterPixel_cmd (s : State) : s.afterPixel.cmd = s.cmd := rfl
@[simp] theorem State.afterPixel_height (s : State) : s.afterPixel.height = s.height := rfl
@[simp] theorem State.afterPixel_width (s : State) : s.afterPixel.width = s.width := rfl
@[simp] theorem State.afterPixel_channels (s : State) : s.afterPixel.channels = s.channels := rfl
@[simp] theorem State.afterPixel_state (s : State) : s.afterPixel.state = s.state := rfl
@[simp] theorem State.afterPixel_signal (s : State) : s.afterPixel.signal = s.signal := rfl
@[simp] theorem State.afterPixel_idxP (s : State) : s.afterPixel.idxP = s.idxP + 1 := rfl
@[simp] theorem State.afterPixel_src (s : State) : s.afterPixel.src = s.src := rfl
@[simp] theorem State.afterPixel_dst (s : State) : s.afterPixel.dst =
    s.dst.fill (pixelOffset s.channels s.idxP 0)
      (s.laneOut (resolve s.cmd s.channels).mode (keyField s.cmd) s.idxP) s.channels := rfl
@[simp] theorem State.afterPixel_host (s : State) : s.afterPixel.host = s.host := rfl
@[simp] theorem State.afterPixel_recorded (s : State) : s.afterPixel.recorded = s.recorded := rfl
@[simp] theorem State.afterPixel_draws (s : State) : s.afterPixel.draws = s.draws := rfl

@[simp] theorem State.afterEnd_params (s : State) : s.afterEnd.params = s.params := rfl
@[simp] theorem State.afterEnd_view (s : State) : s.afterEnd.view = s.view := rfl
@[simp] theorem State.afterEnd_cmd (s : State) : s.afterEnd.cmd = s.cmd := rfl
@[simp] theorem State.afterEnd_height (s : State) : s.afterEnd.height = s.height := rfl
@[simp] theorem State.afterEnd_width (s : State) : s.afterEnd.width = s.width := rfl
@[simp] theorem State.afterEnd_channels (s : State) : s.afterEnd.channels = s.channels := rfl
@[simp] theorem State.afterEnd_state (s : State) : s.afterEnd.state = .done := rfl
@[simp] theorem State.afterEnd_signal (s : State) : s.afterEnd.signal = (resolve s.cmd s.channels).signal := rfl
@[simp] theorem State.afterEnd_idxP (s : State) : s.afterEnd.idxP = s.idxP := rfl
@[simp] theorem State.afterEnd_src (s : State) : s.afterEnd.src = s.src := rfl
@[simp] theorem State.afterEnd_dst (s : State) : s.afterEnd.dst = s.dst := rfl
@[simp] theorem State.afterEnd_host (s : State) : s.afterEnd.host = s.host := rfl
@[simp] theorem State.afterEnd_recorded (s : State) : s.afterEnd.recorded = s.recorded := rfl
@[simp] theorem State.afterEnd_draws (s : State) : s.afterEnd.draws = s.draws + 1 := rfl

@[simp] theorem State.setParam_params (s : State) (r : Reg) (v : Nat) :
    (s.setParam r v).params = s.params := by cases r <;> rfl
@[simp] theorem State.setParam_view (s : State) (r : Reg) (v : Nat) :
    (s.setParam r v).view = s.view := by cases r <;> rfl
@[simp] theorem State.setParam_cmd (s : State) (r : Reg) (v : Nat) :
    (s.setParam r v).cmd = s.cmd := by cases r <;> rfl
@[simp] theorem State.setParam_height (s : State) (r : Reg) (v : Nat) :
    (s.setParam r v).height = if r = .height then v else s.height := by cases r <;> rfl
@[simp] theorem State.setParam_width (s : State) (r : Reg) (v : Nat) :
    (s.setParam r v).width = if r = .width then v else s.width := by cases r <;> rfl
@[simp] theorem State.setParam_channels (s : State) (r : Reg) (v : Nat) :
    (s.setParam r v).channels = if r = .channels then v else s.channels := by cases r <;> rfl
@[simp] theorem State.setParam_state (s : State) (r : Reg) (v : Nat) :
    (s.setParam r v).state = s.state := by cases r <;> rfl
@[simp] theorem State.setParam_signal (s : State) (r : Reg) (v : Nat) :
    (s.setParam r v).signal = s.signal := by cases r <;> rfl
@[simp] theorem State.setParam_idxP (s : State) (r : Reg) (v : Nat) :
    (s.setParam r v).idxP = s.idxP := by cases r <;> rfl
@[simp] theorem State.setParam_src (s : State) (r : Reg) (v : Nat) :
    (s.setParam r v).src = s.src := by cases r <;> rfl
@[simp] theorem State.setParam_dst (s : State) (r : Reg) (v : Nat) :
    (s.setParam r v).dst = s.dst := by cases r <;> rfl
@[simp] theorem State.setParam_host (s : State) (r : Reg) (v : Nat) :
    (s.setParam r v).host = s.host := by cases r <;> rfl
@[simp] theorem State.setParam_recorded (s : State) (r : Reg) (v : Nat) :
    (s.setParam r v).recorded = s.recorded := by cases r <;> rfl
@[simp] theorem State.setParam_draws (s : State) (r : Reg) (v : Nat) :
    (s.setParam r v).draws = s.draws := by cases r <;> rfl

@[simp] theorem State.setBuffer_params (s : State) (space : Space) (m : Memory) :
    (s.setBuffer space m).params = s.params := by cases space <;> rfl
@[simp] theorem State.setBuffer_view (s : State) (space : Space) (m : Memory) :
    (s.setBuffer space m).view = s.view := by cases space <;> rfl
@[simp] theorem State.setBuffer_cmd (s : State) (space : Space) (m : Memory) :
    (s.setBuffer space m).cmd = s.cmd := by cases space <;> rfl
@[simp] theorem State.setBuffer_height (s : State) (space : Space) (m : Memory) :
    (s.setBuffer space m).height = s.height := by cases space <;> rfl
@[simp] theorem State.setBuffer_width (s : State) (space : Space) (m : Memory) :
    (s.setBuffer space m).width = s.width := by cases space <;> rfl
@[simp] theorem State.setBuffer_channels (s : State) (space : Space) (m : Memory) :
    (s.setBuffer space m).channels = s.channels := by cases space <;> rfl
@[simp] theorem State.setBuffer_state (s : State) (space : Space) (m : Memory) :
    (s.setBuffer space m).state = s.state := by cases space <;> rfl
@[simp] theorem State.setBuffer_signal (s : State) (space : Space) (m : Memory) :
    (s.setBuffer space m).signal = s.signal := by cases space <;> rfl
@[simp] theorem State.setBuffer_idxP (s : State) (space : Space) (m : Memory) :
    (s.setBuffer space m).idxP = s.idxP := by cases space <;> rfl
@[simp] theorem State.setBuffer_src (s : State) (space : Space) (m : Memory) :
    (s.setBuffer space m).src = if space = .src then m else s.src := by cases space <;> rfl
@[simp] theorem State.setBuffer_dst (s : State) (space : Space) (m : Memory) :
    (s.setBuffer space m).dst = if space = .dst then m else s.dst := by cases space <;> rfl
@[simp] theorem State.setBuffer_host (s : State) (space : Space) (m : Memory) :
    (s.setBuffer space m).host = s.host := by cases space <;> rfl
@[simp] theorem State.setBuffer_recorded (s : State) (space : Space) (m : Memory) :
    (s.setBuffer space m).recorded = s.recorded := by cases space <;> rfl
@[simp] theorem State.setBuffer_draws (s : State) (space : Space) (m : Memory) :
    (s.setBuffer space m).draws = s.draws := by cases space <;> rfl

@[simp] theorem State.buffer_src (s : State) : s.buffer .src = s.src := rfl
@[simp] theorem State.buffer_dst (s : State) : s.buffer .dst = s.dst := rfl

end Sys2Proof.Machine
end

