-- ==== Sys2Proof/Laws/Command.lean ====
section
/-! SUPPORT. What starting and running a command can do, said once for all twelve commands. -/

namespace Sys2Proof.Machine

open Sys2Proof

/-- Every arm of `exec` runs the command's own word with the command's plan. -/
theorem exec_eq (i : Instr) (s : State) :
    exec i s = runCommand (encode i) (planOf i s.channels) s := by
  cases i <;> rfl

theorem resolve_command {w : CmdWord} {i : Instr} (h : decode w = .command i) (channels : Nat) :
    resolve w channels = planOf i channels := by
  simp [resolve, h]

theorem resolve_reserved {w : CmdWord} {why : Reserved} (h : decode w = .reserved why)
    (channels : Nat) : resolve w channels = planReserved channels := by
  simp [resolve, h]

theorem start_ready {s : State} (h : s.Ready) (t : State) : s.start t = .next t := by
  simp [State.start, h.1, h.2]

/-- All a start can answer: the state asked for from a ready state, and nothing else. -/
theorem start_next {s t u : State} (h : s.start t = .next u) : s.Ready ∧ u = t := by
  unfold State.start at h
  split at h
  · cases h
  · split at h
    · cases h
      exact ⟨⟨‹_›, ‹_›⟩, rfl⟩
    · cases h

theorem start_busy {s : State} (h : s.state = .busy) (t : State) :
    s.start t = .refused .accessWhileBusy := by
  simp [State.start, h]

theorem start_tooLarge {s : State} (h : s.state ≠ .busy) (hn : s.params.maxElems < s.elements)
    (t : State) : s.start t = .refused .bufferTooLarge := by
  simp [State.start, h, show ¬ s.elements ≤ s.params.maxElems by omega]

theorem runCommand_ready {s : State} (h : s.Ready) (w : CmdWord) (plan : Plan) :
    runCommand w plan s = .next (s.afterCommand w plan) :=
  start_ready h _

/-- All a command can answer with a next state. -/
theorem runCommand_next {s t : State} {w : CmdWord} {plan : Plan}
    (h : runCommand w plan s = .next t) : s.Ready ∧ t = s.afterCommand w plan :=
  start_next h

theorem exec_ready {s : State} (h : s.Ready) (i : Instr) :
    exec i s = .next (s.afterCommand (encode i) (planOf i s.channels)) := by
  rw [exec_eq]; exact runCommand_ready h _ _

theorem exec_next {s t : State} {i : Instr} (h : exec i s = .next t) :
    s.Ready ∧ t = s.afterCommand (encode i) (planOf i s.channels) := by
  rw [exec_eq] at h; exact runCommand_next h

/-- `DST` after a command: below `N` the lane the offset names, from `N` on what was there. -/
theorem afterCommand_dst_read (s : State) (w : CmdWord) (plan : Plan) (e : Nat) :
    (s.afterCommand w plan).dst.read e =
      if e < s.elements then
        some (s.laneOut plan.mode (keyField w) (e / s.channels) (e % s.channels))
      else s.dst.read e := by
  rw [State.afterCommand_dst, Memory.read_writePixels]
  rfl

theorem afterCommand_frame (s : State) (w : CmdWord) (plan : Plan) :
    CommandFrame s (s.afterCommand w plan) := by
  refine ⟨rfl, rfl, rfl, rfl, rfl, fun _ => rfl, fun off h => ?_, rfl, rfl⟩
  rw [afterCommand_dst_read, if_neg (by omega)]

theorem afterCommand_finished (s : State) (w : CmdWord) (plan : Plan) :
    Finished s (s.afterCommand w plan) w plan.signal := by
  constructor <;> rfl

/-- An element of a pixel, by its offset: `(e / C)·C + e % C = e`. -/
theorem laneIn_div_mod (s : State) (e : Nat) :
    s.laneIn (e / s.channels) (e % s.channels) = s.elemAt .src e := by
  rw [State.laneIn, pixelOffset, Nat.mul_comm, Nat.div_add_mod]

/-- An offset below `N` names a lane of a pixel of the buffer. -/
theorem pixelOffset_lt {s : State} {p c : Nat} (hp : p < s.pixels) (hc : c < s.channels) :
    pixelOffset s.channels p c < s.elements := by
  unfold pixelOffset State.elements
  calc p * s.channels + c < p * s.channels + s.channels := by omega
    _ = (p + 1) * s.channels := (Nat.succ_mul p s.channels).symm
    _ ≤ s.pixels * s.channels := Nat.mul_le_mul_right _ hp

theorem pixelOffset_div {channels p c : Nat} (hc : c < channels) :
    pixelOffset channels p c / channels = p := by
  have hpos : 0 < channels := by omega
  rw [pixelOffset, Nat.add_comm, Nat.mul_comm, Nat.add_mul_div_left _ _ hpos, Nat.div_eq_of_lt hc,
    Nat.zero_add]

theorem pixelOffset_mod {channels p c : Nat} (hc : c < channels) :
    pixelOffset channels p c % channels = c := by
  rw [pixelOffset, Nat.add_comm, Nat.mul_comm, Nat.add_mul_mod_self_left, Nat.mod_eq_of_lt hc]

/-- `DST` after a command, lane by lane. -/
theorem afterCommand_dst_lane {s : State} {p c : Nat} (hp : p < s.pixels) (hc : c < s.channels)
    (w : CmdWord) (plan : Plan) :
    (s.afterCommand w plan).dst.read (pixelOffset s.channels p c) =
      some (s.laneOut plan.mode (keyField w) p c) := by
  rw [afterCommand_dst_read, if_pos (pixelOffset_lt hp hc), pixelOffset_div hc, pixelOffset_mod hc]

end Sys2Proof.Machine
end

