-- ==== Sys2Proof/Laws/PerInstr.lean ====
section
/-! SUPPORT. Statements about every command as syntax, one lemma per constructor. -/

namespace Sys2Proof.Laws.LowByte

open Sys2Proof

/-- The `match` column of 30_encoding.md R65. -/
def tableMatch : Instr → CmdWord
  | .copy _ => 0x0000
  | .permRB _ => 0x0004
  | .permRG _ => 0x0005
  | .permGB _ => 0x0006
  | .xfAdd _ => 0x0008
  | .xfSub _ => 0x0009
  | .xfXor _ => 0x000A
  | .xfMul _ => 0x000B
  | .ixfAdd _ => 0x000C
  | .ixfSub _ => 0x000D
  | .ixfXor _ => 0x000E
  | .ixfMul _ => 0x000F

/-- The word of a command under the mask 0x00FF is the command's row of the opcode table
(30_encoding.md R65). -/
def Statement (i : Instr) : Prop := encode i &&& 0x00FF = tableMatch i

theorem copy (key : Key) : Statement (.copy key) := by revert key; unfold Statement; decide
theorem permRB (key : Key) : Statement (.permRB key) := by revert key; unfold Statement; decide
theorem permRG (key : Key) : Statement (.permRG key) := by revert key; unfold Statement; decide
theorem permGB (key : Key) : Statement (.permGB key) := by revert key; unfold Statement; decide
theorem xfAdd (key : Key) : Statement (.xfAdd key) := by revert key; unfold Statement; decide
theorem xfSub (key : Key) : Statement (.xfSub key) := by revert key; unfold Statement; decide
theorem xfXor (key : Key) : Statement (.xfXor key) := by revert key; unfold Statement; decide
theorem xfMul (key : Key) : Statement (.xfMul key) := by revert key; unfold Statement; decide
theorem ixfAdd (key : Key) : Statement (.ixfAdd key) := by revert key; unfold Statement; decide
theorem ixfSub (key : Key) : Statement (.ixfSub key) := by revert key; unfold Statement; decide
theorem ixfXor (key : Key) : Statement (.ixfXor key) := by revert key; unfold Statement; decide
theorem ixfMul (key : Key) : Statement (.ixfMul key) := by revert key; unfold Statement; decide

end Sys2Proof.Laws.LowByte
end

