-- ==== Sys2Proof/Laws/Step.lean ====
section
/-! SUPPORT. Everything a step can do, said once: the PXU's own step, and the effect of each host
action. -/

namespace Sys2Proof.Machine

open Sys2Proof

/-- What the PXU's own step can be (40_iteration_wrapper.md R84, R86). -/
theorem pxuStep_cases (s : State) :
    (s.state = .busy ∧ s.idxP < s.pixels ∧ pxuStep s = s.afterPixel) ∨
    (s.state = .busy ∧ s.pixels ≤ s.idxP ∧ pxuStep s = s.afterEnd) ∨
    (s.state ≠ .busy ∧ pxuStep s = s) := by
  unfold pxuStep
  by_cases hb : s.state = .busy
  · by_cases hp : s.idxP < s.pixels
    · exact .inl ⟨hb, hp, by simp [hb, hp]⟩
    · exact .inr (.inl ⟨hb, by omega, by simp [hb, hp]⟩)
  · exact .inr (.inr ⟨hb, by simp [hb]⟩)

theorem pxuStep_pixel {s : State} (hb : s.state = .busy) (hp : s.idxP < s.pixels) :
    pxuStep s = s.afterPixel := by simp [pxuStep, hb, hp]

theorem pxuStep_end {s : State} (hb : s.state = .busy) (hp : s.pixels ≤ s.idxP) :
    pxuStep s = s.afterEnd := by simp [pxuStep, hb, show ¬ s.idxP < s.pixels by omega]

theorem pxuStep_idle {s : State} (hb : s.state ≠ .busy) : pxuStep s = s := by simp [pxuStep, hb]

@[simp] theorem pxuStep_params (s : State) : (pxuStep s).params = s.params := by
  rcases pxuStep_cases s with ⟨_, _, h⟩ | ⟨_, _, h⟩ | ⟨_, h⟩ <;> rw [h] <;> simp

@[simp] theorem pxuStep_view (s : State) : (pxuStep s).view = s.view := by
  rcases pxuStep_cases s with ⟨_, _, h⟩ | ⟨_, _, h⟩ | ⟨_, h⟩ <;> rw [h] <;> simp

@[simp] theorem pxuStep_cmd (s : State) : (pxuStep s).cmd = s.cmd := by
  rcases pxuStep_cases s with ⟨_, _, h⟩ | ⟨_, _, h⟩ | ⟨_, h⟩ <;> rw [h] <;> simp

@[simp] theorem pxuStep_height (s : State) : (pxuStep s).height = s.height := by
  rcases pxuStep_cases s with ⟨_, _, h⟩ | ⟨_, _, h⟩ | ⟨_, h⟩ <;> rw [h] <;> simp

@[simp] theorem pxuStep_width (s : State) : (pxuStep s).width = s.width := by
  rcases pxuStep_cases s with ⟨_, _, h⟩ | ⟨_, _, h⟩ | ⟨_, h⟩ <;> rw [h] <;> simp

@[simp] theorem pxuStep_channels (s : State) : (pxuStep s).channels = s.channels := by
  rcases pxuStep_cases s with ⟨_, _, h⟩ | ⟨_, _, h⟩ | ⟨_, h⟩ <;> rw [h] <;> simp

@[simp] theorem pxuStep_src (s : State) : (pxuStep s).src = s.src := by
  rcases pxuStep_cases s with ⟨_, _, h⟩ | ⟨_, _, h⟩ | ⟨_, h⟩ <;> rw [h] <;> simp

@[simp] theorem pxuStep_host (s : State) : (pxuStep s).host = s.host := by
  rcases pxuStep_cases s with ⟨_, _, h⟩ | ⟨_, _, h⟩ | ⟨_, h⟩ <;> rw [h] <;> simp

@[simp] theorem pxuStep_recorded (s : State) : (pxuStep s).recorded = s.recorded := by
  rcases pxuStep_cases s with ⟨_, _, h⟩ | ⟨_, _, h⟩ | ⟨_, h⟩ <;> rw [h] <;> simp

/-- All that one host action can do when it answers a next state: `HostEffect a u t` says that the
action `a`, taken off the program already, takes the state `u` to the state `t`. -/
inductive HostEffect : HostAction → State → State → Prop where
  | readReg {u : State} (n : Nat) (r : Reg) (hr : regOfNumber n = some r)
      (ok : r = .status ∨ u.state ≠ .busy) :
      HostEffect (.readReg n) u (u.record (.reg n (u.regValue r)))
  | command {u : State} (v : Nat) (i : Instr) (hv : v < 2 ^ 16) (ready : u.Ready)
      (view : u.view = .atomic) (hd : decode (BitVec.ofNat 16 v) = .command i) :
      HostEffect (.writeReg 0 v) u (u.afterCommand (encode i) (planOf i u.channels))
  | reserved {u : State} (v : Nat) (why : Reserved) (hv : v < 2 ^ 16) (ready : u.Ready)
      (view : u.view = .atomic) (hd : decode (BitVec.ofNat 16 v) = .reserved why) :
      HostEffect (.writeReg 0 v) u
        (u.afterCommand (BitVec.ofNat 16 v) (planReserved u.channels))
  | start {u : State} (v : Nat) (hv : v < 2 ^ 16) (ready : u.Ready) (view : u.view = .perPixel) :
      HostEffect (.writeReg 0 v) u (u.afterStart (BitVec.ofNat 16 v))
  | writeParam {u : State} (n v : Nat) (r : Reg) (hr : regOfNumber n = some r) (hc : r ≠ .cmd)
      (hb : u.state ≠ .busy) (hv : v < 2 ^ Params.regWidth u.params r) :
      HostEffect (.writeReg n v) u (u.setParam r v)
  | readElem {u : State} (space : Space) (off : Nat) (hb : u.state ≠ .busy)
      (ho : off < u.params.maxElems) :
      HostEffect (.readElem space off) u
        (u.record (.elem space off (u.elemAt space off))).nextDraw
  | writeElem {u : State} (space : Space) (off : Nat) (v : Elem) (hb : u.state ≠ .busy)
      (ho : off < u.params.maxElems) :
      HostEffect (.writeElem space off v) u (u.setBuffer space ((u.buffer space).write off v))
  | move {u : State} (ready : u.Ready) :
      HostEffect .move u u.afterMove
  | reset {u : State} : HostEffect .reset u u.clear
  | wait {u : State} : HostEffect .wait u (pxuStep u)
  | stillWaiting {u : State} (hb : u.state = .busy) :
      HostEffect .awaitDone u (pxuStep (u.setHost (.awaitDone :: u.host)))
  | goesOn {u : State} (hb : u.state ≠ .busy) : HostEffect .awaitDone u u

theorem ifNotBusy_next {s t : State} {o : Host.Outcome State Fault Refusal}
    (h : s.ifNotBusy o = .next t) : s.state ≠ .busy ∧ o = .next t := by
  unfold State.ifNotBusy at h
  split at h
  · cases h
  · exact ⟨‹_›, h⟩

theorem ifElement_next {s t : State} {space : Space} {off : Nat}
    {o : Host.Outcome State Fault Refusal}
    (h : s.ifElement space off o = .next t) : off < s.params.maxElems ∧ o = .next t := by
  unfold State.ifElement at h
  split at h
  · exact ⟨‹_›, h⟩
  · cases h

theorem regOfNumber_cmd {n : Nat} (h : regOfNumber n = some .cmd) : n = 0 := by
  unfold regOfNumber at h
  split at h <;> simp_all

theorem writeCmd_effect {u t : State} {v : Nat} (hv : v < 2 ^ 16)
    (h : writeCmd (BitVec.ofNat 16 v) u = .next t) : HostEffect (.writeReg 0 v) u t := by
  unfold writeCmd at h
  split at h
  · rename_i view
    split at h
    · rename_i i hd
      obtain ⟨ready, rfl⟩ := exec_next h
      exact .command v i hv ready view hd
    · rename_i why hd
      obtain ⟨ready, rfl⟩ := runCommand_next h
      exact .reserved v why hv ready view hd
  · rename_i view
    obtain ⟨ready, rfl⟩ := start_next h
    exact .start v hv ready view

theorem hostAct_effect {a : HostAction} {u t : State} (h : hostAct a u = .next t) :
    HostEffect a u t := by
  cases a with
  | readReg n =>
    simp only [hostAct, hostReadReg] at h
    split at h
    · cases h
    · rename_i hr
      cases h
      exact .readReg n .status hr (.inl rfl)
    · rename_i r _ hr
      obtain ⟨hb, h⟩ := ifNotBusy_next h
      cases h
      exact .readReg n r hr (.inr hb)
  | writeReg n v =>
    simp only [hostAct, hostWriteReg] at h
    split at h
    · cases h
    · rename_i r hr
      obtain ⟨hb, h⟩ := ifNotBusy_next h
      split at h
      · rename_i hv
        cases r with
        | cmd => exact regOfNumber_cmd hr ▸ writeCmd_effect hv h
        | height => cases h; exact .writeParam n v .height hr (by decide) hb hv
        | width => cases h; exact .writeParam n v .width hr (by decide) hb hv
        | channels => cases h; exact .writeParam n v .channels hr (by decide) hb hv
        | status => cases h; exact .writeParam n v .status hr (by decide) hb hv
      · cases h
  | readElem space off =>
    obtain ⟨hb, h⟩ := ifNotBusy_next h
    obtain ⟨ho, h⟩ := ifElement_next h
    cases h
    exact .readElem space off hb ho
  | writeElem space off v =>
    obtain ⟨hb, h⟩ := ifNotBusy_next h
    obtain ⟨ho, h⟩ := ifElement_next h
    cases h
    exact .writeElem space off v hb ho
  | move =>
    obtain ⟨hb, h⟩ := ifNotBusy_next h
    split at h
    · rename_i hn
      cases h
      exact .move ⟨hb, hn⟩
    · cases h
  | reset => cases h; exact .reset
  | wait => cases h; exact .wait
  | awaitDone =>
    simp only [hostAct, hostAwaitDone, Host.Outcome.next.injEq] at h
    subst h
    split
    · exact .stillWaiting ‹_›
    · exact .goesOn ‹_›

/-- Everything a step can do when it answers a next state. -/
theorem step_cases {s t : State} (h : step s = .next t) :
    (s.host = [] ∧ t = pxuStep s) ∨
    ∃ a rest, s.host = a :: rest ∧ HostEffect a (s.setHost rest) t := by
  unfold step systemStep at h
  split at h
  · rename_i hh
    cases h
    exact .inl ⟨hh, rfl⟩
  · rename_i a rest hh
    exact .inr ⟨a, rest, hh, hostAct_effect h⟩

theorem step_host {s : State} {a : HostAction} {rest : List HostAction} (h : s.host = a :: rest) :
    step s = hostAct a (s.setHost rest) := by
  simp [step, systemStep, h]

theorem step_noHost {s : State} (h : s.host = []) : step s = .next (pxuStep s) := by
  simp [step, systemStep, h]

/-- While a command runs, the host lets the PXU take its own step. -/
theorem step_hostWaits {s : State} {left : List HostAction} (hb : s.state = .busy)
    (h : s.HostWaits left) : step s = .next (pxuStep (s.setHost left)) := by
  obtain ⟨hh, rfl⟩ | hh | ⟨rest, hh, rfl⟩ := h
  · rw [step_noHost hh, ← hh]
    rfl
  · rw [step_host hh]
    rfl
  · rw [step_host hh]
    simp only [hostAct, hostAwaitDone, State.setHost_state, hb, if_true]
    rfl

/-- A write to `CMD` while no command runs. -/
theorem step_writeCmd {s : State} {w : CmdWord} {rest : List HostAction}
    (h : s.host = .writeReg 0 w.toNat :: rest) (hb : s.state ≠ .busy) :
    step s = writeCmd w (s.setHost rest) := by
  have hw : w.toNat < 2 ^ 16 := w.isLt
  rw [step_host h]
  simp only [hostAct, hostWriteReg, regOfNumber, State.ifNotBusy, if_neg hb, Params.regWidth,
    State.setHost, if_pos hw, writeRegister, BitVec.ofNat_toNat, BitVec.setWidth_eq]

theorem runSteps_zero (s : State) : runSteps 0 s = .next s := rfl

theorem runSteps_succ {s t : State} (n : Nat) (h : step s = .next t) :
    runSteps (n + 1) s = runSteps n t := by
  have hc : core.step s = .next t := h
  simp only [runSteps, Host.Core.run, hc]
  rfl

end Sys2Proof.Machine
end

