-- ==== Sys2Proof/Laws/Results.lean ====
section
/-! SUPPORT. What a finished command has left in `DST` for each mode of `Pix`, and the words of the
twelve commands as a key byte and a low byte. -/

namespace Sys2Proof.Machine

open Sys2Proof

theorem encode_wordOf (k : Key) :
    encode (.copy k) = wordOf k 0x00 ∧ encode (.permRB k) = wordOf k 0x04 ∧
    encode (.permRG k) = wordOf k 0x05 ∧ encode (.permGB k) = wordOf k 0x06 ∧
    encode (.xfAdd k) = wordOf k 0x08 ∧ encode (.xfSub k) = wordOf k 0x09 ∧
    encode (.xfXor k) = wordOf k 0x0A ∧ encode (.xfMul k) = wordOf k 0x0B ∧
    encode (.ixfAdd k) = wordOf k 0x0C ∧ encode (.ixfSub k) = wordOf k 0x0D ∧
    encode (.ixfXor k) = wordOf k 0x0E ∧ encode (.ixfMul k) = wordOf k 0x0F := by
  revert k; decide

theorem swapPlan_enough {a b channels : Nat} (h : 3 ≤ channels) :
    swapPlan a b channels = applies (.swap a b) := by
  simp [swapPlan, minPermChannels, show ¬ channels < 3 by omega]

theorem swapPlan_tooFew {a b channels : Nat} (h : channels < 3) :
    swapPlan a b channels = cannot .unsupportedFormat := by
  simp [swapPlan, minPermChannels, h]

/-- A plan with the mode `ID` leaves an identity pass. -/
theorem identityPass_of_id {s : State} {w : CmdWord} {plan : Plan} (h : plan.mode = .id) :
    IdentityPass s (s.afterCommand w plan) := by
  intro e he
  rw [afterCommand_dst_read, if_pos he, h]
  exact congrArg some (laneIn_div_mod s e)

/-- A plan with the mode `SWAP(a, b)` leaves a swap pass. -/
theorem swapPass_of_swap {s : State} {w : CmdWord} {plan : Plan} {a b : Nat}
    (h : plan.mode = .swap a b) (ha : a < s.channels) (hb : b < s.channels) (hab : a ≠ b) :
    SwapPass s (s.afterCommand w plan) a b := by
  intro p hp
  have lane := fun c hc => afterCommand_dst_lane (s := s) (p := p) (c := c) hp hc w plan
  simp only [pixelOffset, State.laneOut, h, pix] at lane
  refine ⟨?_, ?_, fun c hc hca hcb => ?_⟩
  · rw [lane a ha, if_pos rfl]; rfl
  · rw [lane b hb, if_neg (Ne.symm hab), if_pos rfl]; rfl
  · rw [lane c hc, if_neg hca, if_neg hcb]; rfl

end Sys2Proof.Machine
end

