-- ==== Sys2Proof/Tests/Slice0.lean ====
section
/-! SUPPORT. Named tests. Expected results are from spec/95_test_vectors.md (the section or the vector's
id stands beside each), or calculated by hand from the rule named; none was read off the model. -/

namespace Sys2Proof.Tests

open Sys2Proof Sys2Proof.Machine

/-! ### Well-formedness: each check refuses an ill-formed term -/

def small : Params := ⟨16, 8, 64, 0, 1⟩

theorem test_params_legal : small.wf = true := by decide
theorem test_params_no_dim_bits : { small with dimBits := 0 }.wf = false := by decide
theorem test_params_no_ch_bits : { small with chBits := 0 }.wf = false := by decide
theorem test_params_no_capacity : { small with maxElems := 0 }.wf = false := by decide
theorem test_params_capacity_edge :
    { small with maxElems := 2 ^ 40 }.wf = true ∧ { small with maxElems := 2 ^ 40 + 1 }.wf = false := by
  decide
theorem test_line_keyed_needs_key : CommandLine.wf ⟨.xfAdd, none⟩ = false := by decide
theorem test_line_key_below : CommandLine.wf ⟨.xfAdd, some (-1)⟩ = false := by decide
theorem test_line_key_above : CommandLine.wf ⟨.ixfMul, some 256⟩ = false := by decide
theorem test_line_unkeyed_has_none : CommandLine.wf ⟨.copy, some 0⟩ = false := by decide
theorem test_line_legal : CommandLine.wf ⟨.xfMul, some 255⟩ = true ∧
    CommandLine.wf ⟨.permGB, none⟩ = true := by decide

/-! ### Decoding: words written out from the bit table of 30_encoding.md R61 to R63 and R65 -/

/- `kkkkkkkk 0000 uu ss`, most significant bit first. -/
theorem test_decode_copy : decode 0b1010101100000000 = .command (.copy 0xAB) := by decide
theorem test_decode_permRB : decode 0b1111111100000100 = .command (.permRB 0xFF) := by decide
theorem test_decode_permRG : decode 0b0000000000000101 = .command (.permRG 0) := by decide
theorem test_decode_permGB : decode 0b0000000000000110 = .command (.permGB 0) := by decide
theorem test_decode_xfAdd : decode 0b0110010000001000 = .command (.xfAdd 100) := by decide
theorem test_decode_xfSub : decode 0b0110010000001001 = .command (.xfSub 100) := by decide
theorem test_decode_xfXor : decode 0b0000100100001010 = .command (.xfXor 9) := by decide
theorem test_decode_xfMul : decode 0b0011001000001011 = .command (.xfMul 50) := by decide
theorem test_decode_ixfAdd : decode 0b0110010000001100 = .command (.ixfAdd 100) := by decide
theorem test_decode_ixfSub : decode 0b0110010000001101 = .command (.ixfSub 100) := by decide
theorem test_decode_ixfXor : decode 0b0000100100001110 = .command (.ixfXor 9) := by decide
theorem test_decode_ixfMul : decode 0b0011001000001111 = .command (.ixfMul 50) := by decide

/-- The other direction, on the words that 95_test_vectors.md Part 1 gives. -/
theorem test_encode :
    encode (.permRB 0) = 0x0004 ∧ encode (.xfAdd 100) = 0x6408 ∧ encode (.xfXor 9) = 0x090A ∧
    encode (.xfMul 50) = 0x320B ∧ encode (.ixfAdd 100) = 0x640C ∧ encode (.ixfXor 9) = 0x090E ∧
    encode (.ixfMul 50) = 0x320F := by decide

/- 95_test_vectors.md 2.5. -/
theorem test_reserved_selectors :
    decode 0x0001 = .reserved .noSuchSelector ∧ decode 0x0002 = .reserved .noSuchSelector ∧
    decode 0x0003 = .reserved .noSuchSelector ∧ decode 0x0007 = .reserved .noSuchSelector ∧
    decode 0x0107 = .reserved .noSuchSelector := by decide
theorem test_reserved_rsv :
    decode 0x0010 = .reserved .rsvNotZero ∧ decode 0x0080 = .reserved .rsvNotZero ∧
    decode 0x0014 = .reserved .rsvNotZero ∧ decode 0x6418 = .reserved .rsvNotZero ∧
    decode 0x00FF = .reserved .rsvNotZero ∧ decode 0xFFFF = .reserved .rsvNotZero := by decide

theorem test_table_word : decodeTableWord 16 0x6408 = some (.xfAdd 100) ∧
    decodeTableWord 16 0x0007 = none ∧ decodeTableWord 16 0x10008 = none := by decide

/-- The assembler's lines of 30_encoding.md R70: `XF.ADD 100` is `0x6408`, `PERM.GB` is `0x0006`, and a
key of 256 is an error. -/
theorem test_assemble : assemble ⟨.xfAdd, some 100⟩ = some 0x6408 ∧
    assemble ⟨.permGB, none⟩ = some 0x0006 ∧ assemble ⟨.xfAdd, some 256⟩ = none := by decide

/-- The pseudo-instructions of 30_encoding.md R71. -/
theorem test_pseudo : (Pseudo.decSwap .redGreen).expand = [⟨.permRG, none⟩] ∧
    (Pseudo.encMath .subtract 7).expand = [⟨.xfSub, some 7⟩] ∧
    (Pseudo.decMath .add 7).expand = [⟨.ixfAdd, some 7⟩] ∧ Pseudo.exit.expand = [] := by decide

/-! ### One step on a small state -/

def bytesFrom : Nat → List Nat → Memory
  | _, [] => []
  | off, v :: rest => (off, BitVec.ofNat 8 v) :: bytesFrom (off + 1) rest

/-- A PXU of 64 elements with these dimensions, `SRC[0..]` filled, nothing started. -/
def image (height width channels : Nat) (src : List Nat) : State :=
  { State.reset with params := small, height, width, channels, src := bytesFrom 0 src }

/-- `DST` (the values listed, in the order of the offsets) and `STATUS` after writing one word. -/
def after (w : Nat) (s : State) : Option (List Nat × Nat) :=
  match step (s.withFetchWord 16 w) with
  | .next t => some (t.dst.map (·.2.toNat), t.statusByte.toNat)
  | .fault _ => none
  | .refused _ => none

def answers (o : Host.Outcome State Fault Refusal) (p : State → Bool) : Bool :=
  match o with
  | .next t => p t
  | .fault _ => false
  | .refused _ => false

/- 2.1 -/
theorem test_copy : after 0xAB00 (image 1 2 3 [1, 2, 3, 4, 5, 6]) =
    some ([1, 2, 3, 4, 5, 6], 0x02) := by decide
theorem test_copy_keeps_the_rest :
    after 0x0000 { image 1 1 3 [10, 20, 30] with dst := bytesFrom 0 [1, 1, 1, 99] } =
      some ([10, 20, 30, 99], 0x02) := by decide

/- S1, 2.2 -/
theorem test_permRB : after 0x0004 (image 1 1 3 [10, 20, 30]) = some ([30, 20, 10], 0x02) := by decide
theorem test_permRB_alpha : after 0x0004 (image 1 2 4 [10, 20, 30, 40, 50, 60, 70, 80]) =
    some ([30, 20, 10, 40, 70, 60, 50, 80], 0x02) := by decide
theorem test_permRG : after 0x0005 (image 1 1 5 [1, 2, 3, 4, 5]) =
    some ([2, 1, 3, 4, 5], 0x02) := by decide
theorem test_permRG_two_channels : after 0x0005 (image 1 2 2 [1, 2, 3, 4]) =
    some ([1, 2, 3, 4], 0x06) := by decide
theorem test_permGB : after 0x0006 (image 1 2 4 [10, 20, 30, 40, 50, 60, 70, 80]) =
    some ([10, 30, 20, 40, 50, 70, 60, 80], 0x02) := by decide
theorem test_permGB_no_channels : after 0x0006 (image 2 2 0 []) = some ([], 0x06) := by decide

/- 2.3 -/
theorem test_xfAdd : after 0x6408 (image 1 8 1 [0, 1, 44, 127, 128, 200, 254, 255]) =
    some ([100, 101, 144, 227, 228, 44, 98, 99], 0x02) := by decide
theorem test_xfAdd_alpha : after 0x0A08 (image 1 1 4 [250, 0, 100, 255]) =
    some ([4, 10, 110, 9], 0x02) := by decide
theorem test_xfSub : after 0x3209 (image 1 8 1 [0, 1, 44, 127, 128, 200, 254, 255]) =
    some ([206, 207, 250, 77, 78, 150, 204, 205], 0x02) := by decide
theorem test_xfSub_wraps : after 0xFF09 (image 1 1 1 [0]) = some ([1], 0x02) := by decide
theorem test_xfXor : after 0x320A (image 1 8 1 [0, 1, 44, 127, 128, 200, 254, 255]) =
    some ([50, 51, 30, 77, 178, 250, 204, 205], 0x02) := by decide
theorem test_xfMul : after 0x320B (image 1 8 1 [0, 1, 44, 127, 128, 200, 254, 255]) =
    some ([0, 50, 152, 206, 0, 16, 156, 206], 0x02) := by decide
theorem test_xfMul_255 : after 0xFF0B (image 1 1 1 [255]) = some ([1], 0x02) := by decide

/- 2.4, S4, S6 -/
theorem test_ixfAdd : after 0x640C (image 1 1 1 [44]) = some ([200], 0x02) := by decide
theorem test_ixfAdd_wraps : after 0xFF0C (image 1 8 1 [0, 1, 44, 127, 128, 200, 254, 255]) =
    some ([1, 2, 45, 128, 129, 201, 255, 0], 0x02) := by decide
theorem test_ixfSub : after 0x640D (image 1 8 1 [0, 1, 44, 127, 128, 200, 254, 255]) =
    some ([100, 101, 144, 227, 228, 44, 98, 99], 0x02) := by decide
theorem test_ixfXor : after 0x090E (image 1 1 1 [12]) = some ([5], 0x02) := by decide
theorem test_ixfMul_odd_key : after 0x030F (image 1 8 1 [0, 1, 44, 127, 128, 200, 254, 255]) =
    some ([0, 1, 44, 127, 128, 200, 254, 255], 0x0A) := by decide

/- 2.5: `InvalidParameter` wins over `UnsupportedFormat`. -/
theorem test_reserved_word : after 0x0007 (image 1 1 1 [10]) = some ([10], 0x0E) := by decide

/- 2.6: right after reset, with nothing set. -/
theorem test_reset_perm : after 0x0004 State.reset = some ([], 0x06) := by decide
theorem test_reset_xfAdd : after 0x6408 State.reset = some ([], 0x02) := by decide
theorem test_reset_status : State.reset.statusByte = 0x00 := by decide

/-- A host with these actions left. -/
def withHost (s : State) (host : List HostAction) : State := { s with host }

/- 10_state.md R18 to R20, the STATUS byte of each SIGNAL and STATE: DONE with each signal is 0x02, 0x06,
0x0A, 0x0E, and BUSY is 0x01. -/
theorem test_status_bytes :
    { State.reset with state := .done }.statusByte = 0x02 ∧
    { State.reset with state := .done, signal := .unsupportedFormat }.statusByte = 0x06 ∧
    { State.reset with state := .done, signal := .notInvertible }.statusByte = 0x0A ∧
    { State.reset with state := .done, signal := .invalidParameter }.statusByte = 0x0E ∧
    { State.reset with state := .busy }.statusByte = 0x01 := by decide

/- 2.6: the earlier signal is gone; a `CMD` read gives the word written. -/
theorem test_signal_replaced :
    after 0x0000 { image 1 1 1 [77] with state := .done, signal := .unsupportedFormat } =
      some ([77], 0x02) := by decide
theorem test_read_cmd :
    answers (step (withHost { image 0 0 0 [] with cmd := 0xAB00, state := .done } [.readReg 0]))
      (fun t => decide (t.recorded = [.reg 0 0xAB00])) = true := by decide

/- 10_state.md R22, R13: the last legal value, and one more. -/
theorem test_write_width_edge :
    answers (step (withHost (image 0 0 0 []) [.writeReg 2 65535]))
      (fun t => decide (t.width = 65535 ∧ t.height = 0)) = true ∧
    answers (step (withHost (image 0 0 0 []) [.writeReg 2 65536])) (fun _ => true) = false := by
  decide

/- P1: `MOVE` makes the result the next input. -/
theorem test_move :
    answers (step (withHost { image 1 1 3 [10, 20, 30] with dst := bytesFrom 0 [30, 20, 10] } [.move]))
      (fun t => decide (t.src = bytesFrom 0 [30, 20, 10] ∧ t.dst = bytesFrom 0 [30, 20, 10])) =
      true := by decide

/- 70_reset_and_hazards.md R170: a reset during a command. -/
theorem test_reset_while_busy :
    answers (step (withHost { image 1 1 3 [1, 2, 3] with state := .busy, cmd := 8 } [.reset]))
      (fun t => decide (t.statusByte = 0 ∧ t.cmd = 0 ∧ t.src = [] ∧ t.dst = [] ∧ t.height = 0)) =
      true := by decide

/- 40_iteration_wrapper.md R84, R85: the second pixel of a red-green swap, first pixel untouched. -/
theorem test_pixel_step :
    answers (step { image 1 2 3 [1, 2, 3, 4, 5, 6] with state := .busy, cmd := 5, idxP := 1 })
      (fun t => decide (t.dst = bytesFrom 3 [5, 4, 6] ∧ t.idxP = 2 ∧ t.state = .busy)) = true := by
  decide

/-! ### Memory -/

theorem test_write_keeps_order : Memory.write [(1, 7), (5, 8)] 3 9 = [(1, 7), (3, 9), (5, 8)] ∧
    Memory.write [(1, 7), (5, 8)] 5 9 = [(1, 7), (5, 9)] := by decide
theorem test_wf_refuses : Memory.wf [(3, 1), (1, 1)] = false ∧ Memory.wf [(1, 1), (1, 2)] = false ∧
    Memory.wf [(0, 0), (1, 0)] = true := by decide

/-! ### Witnesses: for each statement of Certificates/Slice0/Obligations.lean that has hypotheses, a
state and operands that meet all of them, and one for each clause at the edge of its range. The name
after `witness_` is the statement's. -/

def rgb : State := image 1 1 3 [10, 20, 30]
def gray : State := image 1 1 1 [77]
def twoChannels : State := image 1 2 2 [1, 2, 3, 4]

/-- The buffer fits exactly: `N` = `MAX_ELEMS`. -/
def full : State := { rgb with params := { small with maxElems := 3 } }

/-- One element too many. -/
def tooLarge : State := { rgb with params := { small with maxElems := 2 } }

/-- A running `PERM.RB` in the finer view, before its first pixel, and after its last. -/
def running : State := { rgb with view := .perPixel, state := .busy, cmd := 0x0004 }
def lastPixelDone : State := { running with idxP := 1 }

theorem ready_rgb : rgb.Ready := ⟨by decide, by decide⟩
theorem ready_gray : gray.Ready := ⟨by decide, by decide⟩
theorem ready_twoChannels : twoChannels.Ready := ⟨by decide, by decide⟩
theorem ready_full : full.Ready := ⟨by decide, by decide⟩

theorem witness_ReservedEncodingsExactly : ∃ why, decode 0x0107 = .reserved why :=
  ⟨.noSuchSelector, by decide⟩
theorem witness_EncodeOfDecode : decode 0x6408 = .command (.xfAdd 100) := by decide

theorem witness_CopyCopiesTheBuffer : full.Ready := ready_full
theorem witness_PermRBSwapsRedAndBlue : rgb.Ready ∧ 3 ≤ rgb.channels ∧
    twoChannels.Ready ∧ twoChannels.channels < 3 :=
  ⟨ready_rgb, by decide, ready_twoChannels, by decide⟩
theorem witness_PermRGSwapsRedAndGreen : rgb.Ready ∧ 3 ≤ rgb.channels ∧
    twoChannels.Ready ∧ twoChannels.channels < 3 := witness_PermRBSwapsRedAndBlue
theorem witness_PermGBSwapsGreenAndBlue : rgb.Ready ∧ 3 ≤ rgb.channels ∧
    twoChannels.Ready ∧ twoChannels.channels < 3 := witness_PermRBSwapsRedAndBlue
theorem witness_XfAddAddsTheKey : full.Ready := ready_full
theorem witness_XfSubSubtractsTheKey : full.Ready := ready_full
theorem witness_XfXorXorsTheKey : full.Ready := ready_full
theorem witness_XfMulMultipliesByTheKey : full.Ready := ready_full
theorem witness_IxfAddSubtractsTheKey : full.Ready ∧
    ∀ e, e < full.elements → (full.src.read e).isSome = true := ⟨ready_full, by decide⟩
theorem witness_IxfSubAddsTheKey : full.Ready ∧
    ∀ e, e < full.elements → (full.src.read e).isSome = true := ⟨ready_full, by decide⟩
theorem witness_IxfXorXorsTheKey : full.Ready ∧
    ∀ e, e < full.elements → (full.src.read e).isSome = true := ⟨ready_full, by decide⟩
theorem witness_IxfMulCopiesAndSignals : full.Ready := ready_full
theorem witness_SwapsNeedThreeChannels : twoChannels.Ready ∧ twoChannels.channels < 3 ∧
    gray.Ready ∧ gray.channels < 3 := ⟨ready_twoChannels, by decide, ready_gray, by decide⟩

/-- A host about to write this word to `CMD`. -/
def about (s : State) (w : Nat) : State := withHost s [.writeReg 0 w]

theorem witness_StepRunsTheDecodedCommand :
    (about rgb 0x6408).view = .atomic ∧ (about rgb 0x6408).state ≠ .busy ∧
    (about rgb 0x6408).host = [.writeReg 0 (0x6408 : CmdWord).toNat] ∧
    decode 0x6408 = .command (.xfAdd 100) := by decide
theorem witness_ReservedWordIsAnIdentityPass :
    (about gray 0x0007).view = .atomic ∧ (about gray 0x0007).Ready ∧
    (about gray 0x0007).host = [.writeReg 0 (0x0007 : CmdWord).toNat] ∧
    decode 0x0007 = .reserved .noSuchSelector :=
  ⟨by decide, ready_gray, by decide, by decide⟩
theorem witness_EveryWordEndsInDone :
    (about full 0xFFFF).view = .atomic ∧ (about full 0xFFFF).Ready ∧
    (about full 0xFFFF).host = [.writeReg 0 (0xFFFF : CmdWord).toNat] :=
  ⟨by decide, ready_full, by decide⟩
theorem witness_SignalTable : twoChannels.Ready ∧ rgb.Ready := ⟨ready_twoChannels, ready_rgb⟩
theorem witness_FailureIsAnIdentityPass : ∃ t, exec (.ixfMul 3) rgb = .next t ∧
    t.signal ≠ .transformed := ⟨_, rfl, by decide⟩
theorem witness_EmptyBufferWritesNothing :
    (image 0 5 3 []).state ≠ .busy ∧ (image 0 5 3 []).height = 0 ∧
    (image 5 0 3 []).width = 0 ∧ (image 2 2 0 []).channels = 0 := by decide
theorem witness_TooLargeBufferRefused : tooLarge.state ≠ .busy ∧
    tooLarge.params.maxElems < tooLarge.height * tooLarge.width * tooLarge.channels ∧
    (about tooLarge 0x0007).host = [.writeReg 0 (0x0007 : CmdWord).toNat] := by decide

/-- Another past: an old `DST`, an old signal, an old word, and an element of `SRC` beyond `N`. -/
def rgbLater : State :=
  { image 1 1 3 [10, 20, 30, 5] with
    cmd := 0x000F, state := .done, signal := .notInvertible, idxP := 7
    dst := bytesFrom 0 [1, 1, 1, 99] }

theorem witness_ResultDependsOnInputsOnly : rgb.Ready ∧ rgbLater.Ready ∧
    rgb.height = rgbLater.height ∧ rgb.width = rgbLater.width ∧
    rgb.channels = rgbLater.channels ∧ ∀ e, e < rgb.elements →
      (rgb.src.read e).isSome = true ∧ rgb.src.read e = rgbLater.src.read e :=
  ⟨ready_rgb, ⟨by decide, by decide⟩, by decide, by decide, by decide, by decide⟩
theorem witness_PixelsDoNotMix : rgb.Ready ∧ (image 2 1 3 [10, 20, 30, 9, 9, 9]).Ready ∧
    0 < rgb.pixels ∧ 0 < (image 2 1 3 [10, 20, 30, 9, 9, 9]).pixels ∧
    ∀ c, c < 3 → (rgb.src.read c).isSome = true ∧
      rgb.src.read c = (image 2 1 3 [10, 20, 30, 9, 9, 9]).src.read c :=
  ⟨ready_rgb, ⟨by decide, by decide⟩, by decide, by decide, by decide⟩
theorem witness_SwapsKeepPixelValues : rgb.Ready ∧ twoChannels.Ready :=
  ⟨ready_rgb, ready_twoChannels⟩
theorem witness_SwapTwiceRestores : rgb.Ready ∧ twoChannels.Ready :=
  ⟨ready_rgb, ready_twoChannels⟩
theorem witness_ForwardRoundTrips : full.Ready := ready_full
theorem witness_InverseRoundTrips : full.Ready := ready_full
theorem witness_MultiplyDoesNotRoundTrip : full.Ready := ready_full
theorem witness_EqualCommands : rgb.Ready ∧ rgbLater.Ready ∧
    rgb.height = rgbLater.height ∧ rgb.width = rgbLater.width ∧
    rgb.channels = rgbLater.channels ∧ ∀ e, e < rgb.elements →
      rgb.elemAt .src e = rgbLater.elemAt .src e :=
  ⟨ready_rgb, ⟨by decide, by decide⟩, by decide, by decide, by decide, by decide⟩
theorem witness_WhichCommandsAreOneToOne :
    (2 : Key).toNat = 2 ^ 1 * 1 ∧ (128 : Key).toNat = 2 ^ 7 * 1 ∧ (96 : Key).toNat = 2 ^ 5 * 3 := by
  decide

theorem witness_CommandStart :
    (about { full with view := .perPixel } 0x0004).view = .perPixel ∧
    (about { full with view := .perPixel } 0x0004).state ≠ .busy ∧
    (about { full with view := .perPixel } 0x0004).host =
      [.writeReg 0 (0x0004 : CmdWord).toNat] ∧
    full.elements ≤ full.params.maxElems ∧ tooLarge.state ≠ .busy ∧
    tooLarge.params.maxElems < tooLarge.elements := by decide
theorem witness_PixelStep : running.state = .busy ∧ running.idxP < running.pixels ∧
    running.HostWaits [] ∧ (withHost running [.wait, .readReg 4]).HostWaits [.readReg 4] ∧
    (withHost running [.awaitDone]).HostWaits [.awaitDone] :=
  ⟨by decide, by decide, .inl ⟨rfl, rfl⟩, .inr (.inl rfl), .inr (.inr ⟨[], rfl, rfl⟩)⟩
theorem witness_EndStep : lastPixelDone.state = .busy ∧
    lastPixelDone.idxP = lastPixelDone.pixels ∧ lastPixelDone.HostWaits [] ∧
    (withHost lastPixelDone [.wait, .move]).HostWaits [.move] ∧
    (withHost lastPixelDone [.awaitDone]).HostWaits [.awaitDone] :=
  ⟨by decide, by decide, .inl ⟨rfl, rfl⟩, .inr (.inl rfl), .inr (.inr ⟨[], rfl, rfl⟩)⟩
theorem witness_CommandTakesItsPixelsAndOneStep :
    running.state = .busy ∧ running.idxP ≤ running.pixels ∧ running.host = [] ∧
    lastPixelDone.idxP ≤ lastPixelDone.pixels := by decide
theorem witness_TwoViewsAgree :
    (withHost { rgb with view := .perPixel } [.writeReg 0 4, .awaitDone]).view = .perPixel ∧
    (withHost { rgb with view := .perPixel } [.writeReg 0 4, .awaitDone]).Ready ∧
    (withHost { rgb with view := .perPixel } [.writeReg 0 4, .awaitDone]).host =
      [.writeReg 0 (4 : CmdWord).toNat, .awaitDone] :=
  ⟨by decide, ready_rgb, by decide⟩

theorem witness_NoHostAccessWhileBusy :
    (withHost running [.writeReg 4 0]).state = .busy ∧
    HostAction.needsIdle (.writeReg 4 0) = true ∧ HostAction.needsIdle (.readReg 3) = true ∧
    HostAction.needsIdle (.readElem .dst 0) = true ∧ HostAction.needsIdle .move = true ∧
    HostAction.needsIdle (.readReg 4) = false := by decide
theorem witness_StatusReadAtAnyTime : (withHost running [.readReg 4]).host = [.readReg 4] ∧
    (withHost running [.readReg 4]).state = .busy := by decide
theorem witness_RegisterReadsGiveTheValue : (withHost rgb [.readReg 0]).state ≠ .busy ∧
    (withHost rgb [.readReg 0]).host = [.readReg 0] ∧
    (withHost rgb [.readReg 3]).host = [.readReg 3] ∧ 3 < 4 := by decide
theorem witness_ParameterRegistersStoreTheValue : rgb.state ≠ .busy ∧
    65535 < 2 ^ rgb.params.dimBits ∧ 255 < 2 ^ rgb.params.chBits ∧
    (withHost rgb [.writeReg 1 65535]).host = [.writeReg 1 65535] ∧
    (withHost rgb [.writeReg 2 0]).host = [.writeReg 2 0] ∧
    (withHost rgb [.writeReg 3 255]).host = [.writeReg 3 255] := by decide
theorem witness_StatusWriteChangesNothing : (withHost rgb [.writeReg 4 255]).state ≠ .busy ∧
    255 < 256 ∧ (withHost rgb [.writeReg 4 255]).host = [.writeReg 4 255] := by decide
theorem witness_NoRegisterAboveFour : 5 ≤ 5 ∧
    (withHost rgb [.readReg 5]).host = [.readReg 5] ∧
    (withHost rgb [.writeReg 5 0]).host = [.writeReg 5 0] := by decide
theorem witness_HostWritesOneElement : rgb.state ≠ .busy ∧
    (withHost rgb [.writeElem .dst 63 1]).host = [.writeElem .dst 63 1] ∧
    63 < rgb.params.maxElems ∧
    (withHost rgb [.writeElem .src 64 1]).host = [.writeElem .src 64 1] ∧
    rgb.params.maxElems ≤ 64 := by decide
theorem witness_HostReadsOneElement : rgb.state ≠ .busy ∧ 63 < rgb.params.maxElems ∧
    (withHost rgb [.readElem .dst 63]).host = [.readElem .dst 63] := by decide
theorem witness_MoveCopiesDstToSrc : (withHost full [.move]).Ready ∧
    (withHost full [.move]).host = [.move] := ⟨ready_full, by decide⟩
theorem witness_ResetClearsThePxu : (withHost running [.reset]).host = [.reset] := by decide
theorem witness_IdlePxuWaits : rgb.RunOver ∧ rgb.state ≠ .busy ∧
    (withHost rgb [.wait]).host = [.wait] ∧ (withHost rgb [.awaitDone]).host = [.awaitDone] :=
  ⟨⟨by decide, by decide⟩, by decide, by decide, by decide⟩

/-- The step of this state answers a next state with this property. -/
theorem next_of_answers {s : State} {p : State → Bool} (h : answers (step s) p = true) :
    ∃ t, step s = .next t ∧ p t = true := by
  cases hs : step s with
  | next t => exact ⟨t, rfl, by simpa [answers, hs] using h⟩
  | fault r => simp [answers, hs] at h
  | refused r => simp [answers, hs] at h

theorem witness_OnlyTheHostChangesSrc :
    ∃ t, step (withHost rgb [.writeElem .src 0 9]) = .next t ∧
      decide (t.src ≠ rgb.src) = true := next_of_answers (by decide)
theorem witness_StatusKeepsItsValue :
    (∃ t, step lastPixelDone = .next t ∧
      decide (t.statusByte ≠ lastPixelDone.statusByte) = true) ∧
    ∃ t, step (withHost lastPixelDone [.reset]) = .next t ∧
      decide (t.statusByte ≠ lastPixelDone.statusByte) = true :=
  ⟨next_of_answers (by decide), next_of_answers (by decide)⟩
theorem witness_OnlyTheHostChangesDimensions :
    (∃ t, step (withHost rgb [.writeReg 1 2]) = .next t ∧ decide (t.height ≠ rgb.height) = true) ∧
    (∃ t, step (withHost rgb [.writeReg 2 2]) = .next t ∧ decide (t.width ≠ rgb.width) = true) ∧
    ∃ t, step (withHost rgb [.reset]) = .next t ∧ decide (t.channels ≠ rgb.channels) = true :=
  ⟨next_of_answers (by decide), next_of_answers (by decide), next_of_answers (by decide)⟩
theorem witness_ParametersNeverChange :
    ∃ t, step (about rgb 0x0004) = .next t ∧ decide (t.state = .done) = true :=
  next_of_answers (by decide)

theorem lastPixelDone_inv : lastPixelDone.Inv where
  params_wf := by decide
  height_lt := by decide
  width_lt := by decide
  channels_lt := by decide
  idxP_lt := by decide
  src_wf := by decide
  dst_wf := by decide
  src_inside off h := by
    have h : 64 ≤ off := h
    show Memory.read [(0, 10), (1, 20), (2, 30)] off = none
    simp only [Memory.read, if_neg (show off ≠ 0 by omega), if_neg (show off ≠ 1 by omega),
      if_neg (show off ≠ 2 by omega)]
  dst_inside _ _ := rfl
  idle_fresh h := by cases h
  busy_inside _ := by decide
  done_signal h := by cases h

theorem witness_EveryStepKeepsTheInvariant : lastPixelDone.Inv ∧
    ∃ t, step lastPixelDone = .next t ∧ decide (t.state = .done) = true :=
  ⟨lastPixelDone_inv, next_of_answers (by decide)⟩

theorem witness_UnitsShareNothing : (0 : Nat) ≠ 1 ∧
    (∃ a, stepUnit [about rgb 4, gray] 0 = .next a) ∧
    ∃ b, stepUnit [about rgb 4, gray] 1 = .next b := ⟨by decide, ⟨_, rfl⟩, ⟨_, rfl⟩⟩
theorem witness_AssembledLineDecodesToItsCommand :
    Mnemonic.keyed .xfAdd = true ∧ (0 : Int) ≤ 255 ∧ (255 : Int) ≤ 255 ∧ (-1 : Int) < 0 ∧
    (255 : Int) < 256 ∧ Mnemonic.keyed .copy = false := by decide

end Sys2Proof.Tests
end

section
/-! The state after reset (10_state.md R32). -/

namespace Sys2Proof.Machine

open Sys2Proof

/-- Both spaces are empty after reset. -/
@[simp] theorem State.reset_buffer (space : Space) : State.reset.buffer space = [] := by
  cases space with
  | src => rfl
  | dst => rfl

theorem State.reset_statusByte : State.reset.statusByte = 0x00 := by decide

/-- No element of either space is written after reset: an empty memory lists no offset. -/
theorem State.reset_read (space : Space) (off : Nat) :
    (State.reset.buffer space).read off = none := by
  rw [State.reset_buffer, Memory.read_nil]

/-- Settles O50: the registers and the counter are literal fields of `State.reset`; the `STATUS` byte
and the two buffers have a lemma each. -/
theorem resetStateValues : Obligations.ResetStateValues :=
  ⟨rfl, rfl, rfl, rfl, rfl, rfl, State.reset_statusByte, rfl, State.reset_read⟩

end Sys2Proof.Machine
end

section
/-! A buffer that does not fit (20_memory.md R46): every way to start a command goes through
`State.start`, which refuses it. -/

namespace Sys2Proof.Machine

open Sys2Proof

theorem runCommand_tooLarge {s : State} (hb : s.state ≠ .busy)
    (hn : s.params.maxElems < s.elements) (w : CmdWord) (plan : Plan) :
    runCommand w plan s = .refused .bufferTooLarge :=
  start_tooLarge hb hn _

theorem exec_tooLarge {s : State} (hb : s.state ≠ .busy) (hn : s.params.maxElems < s.elements)
    (i : Instr) : exec i s = .refused .bufferTooLarge := by
  rw [exec_eq]
  exact runCommand_tooLarge hb hn _ _

/-- The three ways a write to `CMD` can go: a command or a reserved word in the atomic view, a start
in the finer one. -/
theorem writeCmd_tooLarge {s : State} (hb : s.state ≠ .busy)
    (hn : s.params.maxElems < s.elements) (w : CmdWord) :
    writeCmd w s = .refused .bufferTooLarge := by
  unfold writeCmd
  split
  · split
    · exact exec_tooLarge hb hn _
    · exact runCommand_tooLarge hb hn _ _
  · exact start_tooLarge hb hn _

/-- Settles O25: taking the action off the host's program changes neither `STATE` nor the
dimensions, so the refusal of the `CMD` write is that of the step. -/
theorem tooLargeBufferRefused : Obligations.TooLargeBufferRefused := by
  intro s hb hn
  refine ⟨exec_tooLarge hb hn, fun w rest hh => ?_⟩
  rw [step_writeCmd hh hb]
  exact writeCmd_tooLarge (s := s.setHost rest) hb hn w

end Sys2Proof.Machine
end

section
/-! Distinct encodings of one effect (30_encoding.md R72): a command whose mode is not a swap takes
each element from the same offset alone, and the words of each pair differ in `UNIT`. -/

namespace Sys2Proof.Machine

open Sys2Proof

/-- Every mode but a swap sees one element and not the lane it stands in (40_iteration_wrapper.md
R83). -/
theorem pix_eq_of_not_swap {mode : Mode} (hm : ∀ a b, mode ≠ .swap a b) (k : Key)
    {inp inp' : Nat → Elem} {c c' : Nat} (h : inp c = inp' c') :
    pix mode k inp c = pix mode k inp' c' := by
  cases mode with
  | swap a b => exact absurd rfl (hm a b)
  | id | add | sub | xor | mul => simp only [pix, h]

/-- `DST` below `N` after a command that is not a swap, by offset instead of by pixel and lane. -/
theorem afterCommand_dst_read_of_not_swap {s : State} {plan : Plan}
    (hm : ∀ a b, plan.mode ≠ .swap a b) (w : CmdWord) {e : Nat} (he : e < s.elements) :
    (s.afterCommand w plan).dst.read e =
      some (pix plan.mode (keyField w) (s.elemAt .src) e) := by
  rw [afterCommand_dst_read, if_pos he, State.laneOut,
    pix_eq_of_not_swap hm _ (laneIn_div_mod s e)]

/-- Two commands with one plan, not a swap, and one `KEY` end with the same `DST` and signal on
buffers of the same size and elements. -/
theorem exec_agree {s₁ s₂ : State} {i j : Instr} {plan : Plan}
    (hm : ∀ a b, plan.mode ≠ .swap a b)
    (hi : planOf i s₁.channels = plan) (hj : planOf j s₂.channels = plan)
    (hk : keyField (encode i) = keyField (encode j)) (hr₁ : s₁.Ready) (hr₂ : s₂.Ready)
    (hn : s₁.elements = s₂.elements)
    (hsrc : ∀ e, e < s₁.elements → s₁.elemAt .src e = s₂.elemAt .src e) :
    ∃ t u, exec i s₁ = .next t ∧ exec j s₂ = .next u ∧
      (∀ e, e < s₁.elements → t.dst.read e = u.dst.read e) ∧ t.signal = u.signal := by
  refine ⟨_, _, exec_ready hr₁ i, exec_ready hr₂ j, fun e he => ?_, ?_⟩
  · rw [hi, hj, afterCommand_dst_read_of_not_swap hm _ he,
      afterCommand_dst_read_of_not_swap hm _ (hn ▸ he), hk, pix_eq_of_not_swap hm _ (hsrc e he)]
  · rw [State.afterCommand_signal, State.afterCommand_signal, hi, hj]

/-- The inverse unit is `UNIT` = 3 and the forward unit `UNIT` = 2 (30_encoding.md R62). -/
theorem encode_ne_of_unitField {i j : Instr} (hi : unitField (encode i) = 3)
    (hj : unitField (encode j) = 2) : encode i ≠ encode j := by
  intro h
  rw [h, hj] at hi
  exact absurd hi (by decide)

/-- Settles O33: both commands of a pair have the plan `SUB`, `ADD` or `XOR`. -/
theorem equalCommands : Obligations.EqualCommands := by
  intro s₁ s₂ key i j hpair hr₁ hr₂ hh hw hc hsrc
  have hn : s₁.elements = s₂.elements := by
    simp only [State.elements, State.pixels, hh, hw, hc]
  rcases hpair with ⟨rfl, rfl⟩ | ⟨rfl, rfl⟩ | ⟨rfl, rfl⟩
  · exact ⟨encode_ne_of_unitField (by simp [encode]) (by simp [encode]),
      exec_agree (plan := applies .sub) nofun rfl rfl (by simp) hr₁ hr₂ hn hsrc⟩
  · exact ⟨encode_ne_of_unitField (by simp [encode]) (by simp [encode]),
      exec_agree (plan := applies .add) nofun rfl rfl (by simp) hr₁ hr₂ hn hsrc⟩
  · exact ⟨encode_ne_of_unitField (by simp [encode]) (by simp [encode]),
      exec_agree (plan := applies .xor) nofun rfl rfl (by simp) hr₁ hr₂ hn hsrc⟩

end Sys2Proof.Machine
end

section
/-! The iteration wrapper (40_iteration_wrapper.md): `COPY` as the identity pass of a finished
command (R90), and the start of a command in the finer view (R80). -/

namespace Sys2Proof.Machine

open Sys2Proof

theorem encode_copy (key : Key) : encode (.copy key) = wordOf key 0x00 :=
  (encode_wordOf key).1

/-- Settles O6: `COPY` has the mode `ID` whatever the channel count is, so a ready state ends in an
identity pass. -/
theorem copyCopiesTheBuffer : Obligations.CopyCopiesTheBuffer := by
  intro s key ready
  refine ⟨_, exec_ready ready (.copy key), identityPass_of_id rfl, ?_, afterCommand_frame s _ _⟩
  rw [encode_copy]
  exact afterCommand_finished s _ _

/-- In the finer view a write to `CMD` is a start alone, for a reserved word too. -/
theorem writeCmd_perPixel {s : State} (hv : s.view = .perPixel) (w : CmdWord) :
    writeCmd w s = startCommand w s := by
  simp only [writeCmd, hv]

theorem startCommand_ready {s : State} (ready : s.Ready) (w : CmdWord) :
    startCommand w s = .next (s.afterStart w) :=
  start_ready ready _

/-- Settles O35: taking the action off the host's program keeps the view and whether a command may
start, so the step is the start of the command, or its refusal when the buffer does not fit. -/
theorem commandStart : Obligations.CommandStart := by
  intro s w rest hv hb hh
  refine ⟨fun fits => ?_, fun tooLarge => (tooLargeBufferRefused s hb tooLarge).2 w rest hh⟩
  have ready : (s.setHost rest).Ready := ⟨hb, fits⟩
  rw [step_writeCmd hh hb, writeCmd_perPixel (s := s.setHost rest) hv, startCommand_ready ready]
  rfl

end Sys2Proof.Machine
end

section
/-! The channel permutation unit (41_channel_permutation.md): a swap command is known by its plan
`swapPlan a b`, and its result follows from whether the channel count reaches 3 (R101 to R104). -/

namespace Sys2Proof.Machine

open Sys2Proof

theorem encode_permRB (key : Key) : encode (.permRB key) = wordOf key 0x04 :=
  (encode_wordOf key).2.1

theorem encode_permRG (key : Key) : encode (.permRG key) = wordOf key 0x05 :=
  (encode_wordOf key).2.2.1

theorem encode_permGB (key : Key) : encode (.permGB key) = wordOf key 0x06 :=
  (encode_wordOf key).2.2.2.1

/-- What a command with the plan of a swap leaves on at least 3 channels (R101 to R103). -/
theorem swapPlan_swaps {s : State} {a b : Nat} (ha : a < 3) (hb : b < 3) (hab : a ≠ b)
    (w : CmdWord) (hc : 3 ≤ s.channels) :
    SwapPass s (s.afterCommand w (swapPlan a b s.channels)) a b ∧
      Finished s (s.afterCommand w (swapPlan a b s.channels)) w .transformed := by
  rw [swapPlan_enough hc]
  exact ⟨swapPass_of_swap rfl (by omega) (by omega) hab, afterCommand_finished s w _⟩

/-- What a command with the plan of a swap leaves on fewer than 3 channels (R104). -/
theorem swapPlan_copies {s : State} (a b : Nat) (w : CmdWord) (hc : s.channels < 3) :
    IdentityPass s (s.afterCommand w (swapPlan a b s.channels)) ∧
      Finished s (s.afterCommand w (swapPlan a b s.channels)) w .unsupportedFormat := by
  rw [swapPlan_tooFew hc]
  exact ⟨identityPass_of_id rfl, afterCommand_finished s w _⟩

/-- Settles O7: `PERM.RB` has the plan of the swap of lanes 0 and 2. -/
theorem permRBSwapsRedAndBlue : Obligations.PermRBSwapsRedAndBlue := by
  intro s key ready
  rw [← encode_permRB]
  exact ⟨_, exec_ready ready (.permRB key), afterCommand_frame s _ _,
    swapPlan_swaps (by decide) (by decide) (by decide) _, swapPlan_copies 0 2 _⟩

/-- Settles O8: `PERM.RG` has the plan of the swap of lanes 0 and 1. -/
theorem permRGSwapsRedAndGreen : Obligations.PermRGSwapsRedAndGreen := by
  intro s key ready
  rw [← encode_permRG]
  exact ⟨_, exec_ready ready (.permRG key), afterCommand_frame s _ _,
    swapPlan_swaps (by decide) (by decide) (by decide) _, swapPlan_copies 0 1 _⟩

/-- Settles O9: `PERM.GB` has the plan of the swap of lanes 1 and 2. -/
theorem permGBSwapsGreenAndBlue : Obligations.PermGBSwapsGreenAndBlue := by
  intro s key ready
  rw [← encode_permGB]
  exact ⟨_, exec_ready ready (.permGB key), afterCommand_frame s _ _,
    swapPlan_swaps (by decide) (by decide) (by decide) _, swapPlan_copies 1 2 _⟩

/-- The three swap commands are those whose plan is that of a swap of two lanes. -/
theorem planOf_perm {i : Instr} {key : Key}
    (h : i = .permRB key ∨ i = .permRG key ∨ i = .permGB key) :
    ∃ a b, ∀ channels, planOf i channels = swapPlan a b channels := by
  rcases h with rfl | rfl | rfl
  · exact ⟨0, 2, fun _ => rfl⟩
  · exact ⟨0, 1, fun _ => rfl⟩
  · exact ⟨1, 2, fun _ => rfl⟩

/-- Settles O18: the plan of each swap on fewer than 3 channels is an identity pass, and no command
writes `SRC`. -/
theorem swapsNeedThreeChannels : Obligations.SwapsNeedThreeChannels := by
  intro s key i hi ready hc
  obtain ⟨a, b, hplan⟩ := planOf_perm hi
  obtain ⟨copied, finished⟩ := swapPlan_copies a b (encode i) hc
  rw [← hplan] at copied finished
  exact ⟨_, exec_ready ready i, finished.signal, finished.state, copied,
    (afterCommand_frame s _ _).src⟩

end Sys2Proof.Machine
end

section
/-! A command, `MOVE`, and a second command on the moved result (41_channel_permutation.md R105):
the second command finds in its lanes what the first one has written, so the two compose pixel by
pixel as their `Pix` do. -/

namespace Sys2Proof.Machine

open Sys2Proof

theorem hostMove_ready {s : State} (ready : s.Ready) : hostMove s = .next s.afterMove := by
  obtain ⟨notBusy, fits⟩ := ready
  simp [hostMove, State.ifNotBusy, notBusy, fits]

/-- A finished command leaves the dimensions alone, so the next one may run. -/
theorem ready_afterCommand {s : State} (ready : s.Ready) (w : CmdWord) (plan : Plan) :
    (s.afterCommand w plan).Ready :=
  ⟨by simp, ready.2⟩

theorem ready_afterMove {s : State} (ready : s.Ready) : s.afterMove.Ready := ready

/-- After `MOVE`, `SRC` reads below `N` as `DST` read before it (70_reset_and_hazards.md R177). -/
theorem afterMove_elemAt_src {s : State} {e : Nat} (he : e < s.elements) :
    s.afterMove.elemAt .src e = s.elemAt .dst e := by
  rw [State.elemAt, State.buffer_src, State.afterMove_src, Memory.read_fill, if_pos (by omega)]
  rfl

/-- The lanes of the moved result are the lanes the command has written. -/
theorem moved_laneIn {s : State} {p c : Nat} (hp : p < s.pixels) (hc : c < s.channels)
    (w : CmdWord) (plan : Plan) :
    (s.afterCommand w plan).afterMove.laneIn p c = s.laneOut plan.mode (keyField w) p c := by
  have moved : (s.afterCommand w plan).afterMove.laneIn p c =
      (s.afterCommand w plan).elemAt .dst (pixelOffset s.channels p c) :=
    afterMove_elemAt_src (pixelOffset_lt hp hc)
  rw [moved, State.elemAt, State.buffer_dst, afterCommand_dst_lane hp hc]
  rfl

theorem swapPlan_lanes {a b channels a' b' : Nat} (ha : a < 3) (hb : b < 3)
    (h : (swapPlan a b channels).mode = .swap a' b') : a' < channels ∧ b' < channels := by
  rcases Nat.lt_or_ge channels 3 with few | enough
  · rw [swapPlan_tooFew few] at h
    cases h
  · rw [swapPlan_enough enough] at h
    cases h
    omega

/-- A command exchanges only lanes that a pixel has (40_iteration_wrapper.md R82,
41_channel_permutation.md R104). -/
theorem planOf_swap_lanes {i : Instr} {channels a b : Nat}
    (h : (planOf i channels).mode = .swap a b) : a < channels ∧ b < channels := by
  cases i with
  | permRB | permRG | permGB => exact swapPlan_lanes (by decide) (by decide) h
  | copy | xfAdd | xfSub | xfXor | xfMul | ixfAdd | ixfSub | ixfXor | ixfMul => cases h

/-- `Pix` of a mode that exchanges only lanes below `C` looks at no lane from `C` on. -/
theorem pix_congr {mode : Mode} {channels : Nat}
    (lanes : ∀ a b, mode = .swap a b → a < channels ∧ b < channels) (k : Key)
    {inp inp' : Nat → Elem} (h : ∀ c, c < channels → inp c = inp' c) {c : Nat}
    (hc : c < channels) : pix mode k inp c = pix mode k inp' c := by
  cases mode with
  | swap a b =>
    obtain ⟨ha, hb⟩ := lanes a b rfl
    simp only [pix, h a ha, h b hb, h c hc]
  | id | add | sub | xor | mul => simp only [pix, h c hc]

/-- A command on the moved result of another applies its `Pix` to the lanes the first one wrote. -/
theorem moved_afterCommand_dst_read {s : State} (w : CmdWord) (plan : Plan) (j : Instr) {e : Nat}
    (he : e < s.elements) :
    ((s.afterCommand w plan).afterMove.afterCommand (encode j) (planOf j s.channels)).dst.read e =
      some (pix (planOf j s.channels).mode (keyField (encode j))
        (s.laneOut plan.mode (keyField w) (e / s.channels)) (e % s.channels)) := by
  have hchannels : 0 < s.channels := Nat.pos_of_mul_pos_left (Nat.zero_lt_of_lt he)
  have hp : e / s.channels < s.pixels := (Nat.div_lt_iff_lt_mul hchannels).mpr he
  have hc : e % s.channels < s.channels := Nat.mod_lt _ hchannels
  have written := (afterCommand_dst_read (s.afterCommand w plan).afterMove (encode j)
    (planOf j s.channels) e).trans (if_pos he)
  rw [written]
  exact congrArg some
    (pix_congr (fun _ _ => planOf_swap_lanes) _ (fun _ hc => moved_laneIn hp hc w plan) hc)

/-- Two commands undo each other when their `Pix` do, for every channel count. -/
theorem undoes_of_pix {i j : Instr}
    (undo : ∀ channels inp c, pix (planOf j channels).mode (keyField (encode j))
      (pix (planOf i channels).mode (keyField (encode i)) inp) c = inp c) : Undoes i j := by
  intro s ready
  have ready' := ready_afterCommand ready (encode i) (planOf i s.channels)
  refine ⟨_, _, _, exec_ready ready i, hostMove_ready ready',
    exec_ready (ready_afterMove ready') j, fun e he => ?_⟩
  have lane : pix (planOf j s.channels).mode (keyField (encode j))
      (s.laneOut (planOf i s.channels).mode (keyField (encode i)) (e / s.channels))
      (e % s.channels) = s.elemAt .src e :=
    (undo _ _ _).trans (laneIn_div_mod s e)
  exact (moved_afterCommand_dst_read _ _ j he).trans (congrArg some lane)

/-- A swap undoes itself whether it applies or copies. -/
theorem pix_swapPlan_twice (a b : Nat) (k k' : Key) (channels : Nat) (inp : Nat → Elem) (c : Nat) :
    pix (swapPlan a b channels).mode k (pix (swapPlan a b channels).mode k' inp) c = inp c := by
  rcases Nat.lt_or_ge channels 3 with few | enough
  · rw [swapPlan_tooFew few]; rfl
  · rw [swapPlan_enough enough]; exact swap_swap a b k k' inp c

/-- Settles O29: the plans of the three swaps are `swapPlan` of their two lanes, for any key. -/
theorem swapTwiceRestores : Obligations.SwapTwiceRestores := by
  intro key key'
  exact ⟨undoes_of_pix (pix_swapPlan_twice 0 2 _ _), undoes_of_pix (pix_swapPlan_twice 0 1 _ _),
    undoes_of_pix (pix_swapPlan_twice 1 2 _ _)⟩

end Sys2Proof.Machine
end

section
/-! The modular-arithmetic unit, forward (42_modular_transform.md): a command whose mode is not a swap
gives each element its `Pix` at the same offset, so the number it gives there is a fact about one
element (R113 to R116), and so is what undoes it (R119). -/

namespace Sys2Proof.Machine

open Sys2Proof

theorem encode_xfAdd (key : Key) : encode (.xfAdd key) = wordOf key 0x08 :=
  (encode_wordOf key).2.2.2.2.1

theorem encode_xfSub (key : Key) : encode (.xfSub key) = wordOf key 0x09 :=
  (encode_wordOf key).2.2.2.2.2.1

theorem encode_xfXor (key : Key) : encode (.xfXor key) = wordOf key 0x0A :=
  (encode_wordOf key).2.2.2.2.2.2.1

theorem encode_xfMul (key : Key) : encode (.xfMul key) = wordOf key 0x0B :=
  (encode_wordOf key).2.2.2.2.2.2.2.1

/-- A difference is reduced by one borrow at most: both operands are below 256. -/
theorem subMod_toNat_borrow (v : Elem) (k : Key) :
    ((subMod v k).toNat : Int) =
      if (v.toNat : Int) < k.toNat then (v.toNat : Int) - k.toNat + 256
      else (v.toNat : Int) - k.toNat := by
  have hv := v.isLt
  have hk := k.isLt
  rw [subMod_toNat]
  split <;> omega

theorem xorKey_getLsbD (v : Elem) (k : Key) (b : Nat) :
    (xorKey v k).getLsbD b = (v.getLsbD b ^^ k.getLsbD b) :=
  BitVec.getLsbD_xor

/-- A plan that is not a swap leaves an arithmetic pass by `f` when its `Pix` computes `f`. -/
theorem arithPass_of_pix {s : State} {w : CmdWord} {plan : Plan} {key : Key} {f : Int → Int}
    (notSwap : ∀ a b, plan.mode ≠ .swap a b) (hkey : keyField w = key)
    (value : ∀ inp c, ((pix plan.mode key inp c).toNat : Int) = f (inp c).toNat) :
    ArithPass s (s.afterCommand w plan) f := by
  subst hkey
  exact fun e he => ⟨_, afterCommand_dst_read_of_not_swap notSwap w he, value (s.elemAt .src) e⟩

/-- A plan with the mode `XOR` flips the bits of each element that are set in the key. -/
theorem afterCommand_xor_bits {s : State} {w : CmdWord} {plan : Plan} {key : Key}
    (hmode : plan.mode = .xor) (hkey : keyField w = key) {e : Nat} (he : e < s.elements) :
    ∃ d : Elem, (s.afterCommand w plan).dst.read e = some d ∧
      ∀ b, b < 8 → d.getLsbD b = ((s.elemAt .src e).getLsbD b ^^ key.getLsbD b) := by
  have read := afterCommand_dst_read_of_not_swap (plan := plan) (by simp [hmode]) w he
  rw [hmode, hkey] at read
  exact ⟨_, read, fun b _ => xorKey_getLsbD _ key b⟩

/-- Settles O10: the `Pix` of `XF.ADD` is the sum reduced mod 256. -/
theorem xfAddAddsTheKey : Obligations.XfAddAddsTheKey := by
  intro s key ready
  rw [← encode_xfAdd]
  exact ⟨_, exec_ready ready (.xfAdd key),
    arithPass_of_pix nofun (by simp) fun _ _ => reduce256_toNat _,
    afterCommand_finished s _ _, afterCommand_frame s _ _⟩

/-- Settles O11: the `Pix` of `XF.SUB` is the difference, with a borrow where `v < k`. -/
theorem xfSubSubtractsTheKey : Obligations.XfSubSubtractsTheKey := by
  intro s key ready
  rw [← encode_xfSub]
  exact ⟨_, exec_ready ready (.xfSub key),
    arithPass_of_pix nofun (by simp) fun inp c => subMod_toNat_borrow (inp c) key,
    afterCommand_finished s _ _, afterCommand_frame s _ _⟩

/-- Settles O12: `XF.XOR` has the mode `XOR`. -/
theorem xfXorXorsTheKey : Obligations.XfXorXorsTheKey := by
  intro s key ready
  rw [← encode_xfXor]
  exact ⟨_, exec_ready ready (.xfXor key), fun _ he => afterCommand_xor_bits rfl (by simp) he,
    afterCommand_finished s _ _, afterCommand_frame s _ _⟩

/-- Settles O13: the `Pix` of `XF.MUL` is the product reduced mod 256, for odd and even keys. -/
theorem xfMulMultipliesByTheKey : Obligations.XfMulMultipliesByTheKey := by
  intro s key ready
  rw [← encode_xfMul]
  exact ⟨_, exec_ready ready (.xfMul key),
    arithPass_of_pix nofun (by simp) fun _ _ => reduce256_toNat _,
    afterCommand_finished s _ _, afterCommand_frame s _ _⟩

/-- Settles O30: at one key `subMod` and `addMod` undo each other and `xorKey` undoes itself. -/
theorem forwardRoundTrips : Obligations.ForwardRoundTrips := by
  intro key
  obtain ⟨hadd, hsub, hxor, -⟩ := keyField_encode_keyed key
  refine ⟨undoes_of_pix fun _ inp c => ?_, undoes_of_pix fun _ inp c => ?_,
    undoes_of_pix fun _ inp c => ?_⟩
  · rw [hadd, hsub]; exact subMod_addMod (inp c) key
  · rw [hadd, hsub]; exact addMod_subMod (inp c) key
  · rw [hxor]; exact xorKey_xorKey (inp c) key

end Sys2Proof.Machine
end

section
/-! The modular-arithmetic unit, inverse (43_inverse_transform.md): `IXF.ADD`, `IXF.SUB` and `IXF.XOR`
have the plan of `XF.SUB`, `XF.ADD` and `XF.XOR`, so they leave what those leave (R131 to R133) and
undo what those undo (R135); `IXF.MUL` has the mode `ID`, so it keeps the multiplied buffer (R134,
R136). -/

namespace Sys2Proof.Machine

open Sys2Proof

theorem encode_ixfAdd (key : Key) : encode (.ixfAdd key) = wordOf key 0x0C :=
  (encode_wordOf key).2.2.2.2.2.2.2.2.1

theorem encode_ixfSub (key : Key) : encode (.ixfSub key) = wordOf key 0x0D :=
  (encode_wordOf key).2.2.2.2.2.2.2.2.2.1

theorem encode_ixfXor (key : Key) : encode (.ixfXor key) = wordOf key 0x0E :=
  (encode_wordOf key).2.2.2.2.2.2.2.2.2.2.1

theorem encode_ixfMul (key : Key) : encode (.ixfMul key) = wordOf key 0x0F :=
  (encode_wordOf key).2.2.2.2.2.2.2.2.2.2.2

/-- Of a command's word only the `KEY` byte reaches `DST` and `STATUS`: two commands with one plan
and one `KEY` leave the same in both. -/
theorem exec_same_dst_status {s t : State} {i j : Instr}
    (hplan : ∀ channels, planOf i channels = planOf j channels)
    (hkey : keyField (encode i) = keyField (encode j)) (h : exec i s = .next t) :
    ∃ u, exec j s = .next u ∧ t.dst = u.dst ∧ t.statusByte = u.statusByte := by
  obtain ⟨ready, rfl⟩ := exec_next h
  refine ⟨_, exec_ready ready j, ?_, ?_⟩
  · rw [State.afterCommand_dst, State.afterCommand_dst, hplan, hkey]
  · rw [hplan]; rfl

/-- What undoes a command may be replaced by a command with the same plan and `KEY`. -/
theorem Undoes.congr_second {i j j' : Instr} (h : Undoes i j)
    (hplan : ∀ channels, planOf j channels = planOf j' channels)
    (hkey : keyField (encode j) = keyField (encode j')) : Undoes i j' := by
  intro s ready
  obtain ⟨t, u, v, first, moved, second, restored⟩ := h s ready
  obtain ⟨v', second', sameDst, -⟩ := exec_same_dst_status hplan hkey second
  exact ⟨t, u, v', first, moved, second', fun e he => sameDst ▸ restored e he⟩

/-- A command with the mode `ID` on the moved result of another leaves that result in `DST`. -/
theorem moved_identity_dst_read {s : State} {j : Instr} (hid : (planOf j s.channels).mode = .id)
    (w : CmdWord) (plan : Plan) {e : Nat} (he : e < s.elements) :
    ((s.afterCommand w plan).afterMove.afterCommand (encode j) (planOf j s.channels)).dst.read e =
      (s.afterCommand w plan).dst.read e := by
  rw [moved_afterCommand_dst_read w plan j he, afterCommand_dst_read, if_pos he, hid, pix]

/-- Multiplying changes nothing exactly where the reduced product is the element's own number. -/
theorem mulMod_eq_self_iff (v : Elem) (k : Key) :
    mulMod v k = v ↔ v.toNat * k.toNat % 256 = v.toNat := by
  rw [← BitVec.toNat_inj, mulMod_toNat]

/-- `DST` below `N` after `XF.MUL` (42_modular_transform.md R116). -/
theorem afterCommand_xfMul_dst_read {s : State} (key : Key) {e : Nat} (he : e < s.elements) :
    (s.afterCommand (encode (.xfMul key)) (planOf (.xfMul key) s.channels)).dst.read e =
      some (mulMod (s.elemAt .src e) key) := by
  have read := afterCommand_dst_read_of_not_swap (plan := planOf (.xfMul key) s.channels) nofun
    (encode (.xfMul key)) he
  obtain ⟨-, -, -, hkey, -⟩ := keyField_encode_keyed key
  rwa [hkey] at read

/-- Settles O14: `IXF.ADD` has the mode `SUB`, and the plan and `KEY` of `XF.SUB`. -/
theorem ixfAddSubtractsTheKey : Obligations.IxfAddSubtractsTheKey := by
  intro s key ready
  rw [← encode_ixfAdd]
  have run := exec_ready ready (.ixfAdd key)
  exact ⟨_, run, arithPass_of_pix nofun (by simp) fun inp c => subMod_toNat (inp c) key,
    afterCommand_finished s _ _, afterCommand_frame s _ _,
    fun _ => exec_same_dst_status (i := .ixfAdd key) (fun _ => rfl) (by simp) run⟩

/-- Settles O15: `IXF.SUB` has the mode `ADD`, and the plan and `KEY` of `XF.ADD`. -/
theorem ixfSubAddsTheKey : Obligations.IxfSubAddsTheKey := by
  intro s key ready
  rw [← encode_ixfSub]
  have run := exec_ready ready (.ixfSub key)
  exact ⟨_, run, arithPass_of_pix nofun (by simp) fun _ _ => reduce256_toNat _,
    afterCommand_finished s _ _, afterCommand_frame s _ _,
    fun _ => exec_same_dst_status (i := .ixfSub key) (fun _ => rfl) (by simp) run⟩

/-- Settles O16: `IXF.XOR` has the mode `XOR`, and the plan and `KEY` of `XF.XOR`. -/
theorem ixfXorXorsTheKey : Obligations.IxfXorXorsTheKey := by
  intro s key ready
  rw [← encode_ixfXor]
  have run := exec_ready ready (.ixfXor key)
  exact ⟨_, run, fun _ he => afterCommand_xor_bits rfl (by simp) he,
    afterCommand_finished s _ _, afterCommand_frame s _ _,
    fun _ => exec_same_dst_status (i := .ixfXor key) (fun _ => rfl) (by simp) run⟩

/-- Settles O17: the plan of `IXF.MUL` is an identity pass with `NotInvertible`, whatever the key. -/
theorem ixfMulCopiesAndSignals : Obligations.IxfMulCopiesAndSignals := by
  intro s key ready
  rw [← encode_ixfMul]
  exact ⟨_, exec_ready ready (.ixfMul key), identityPass_of_id rfl,
    afterCommand_finished s _ _, afterCommand_frame s _ _⟩

/-- Settles O31: the forward unit's round trips, with its second command replaced by the inverse
unit's command of the same plan and key. -/
theorem inverseRoundTrips : Obligations.InverseRoundTrips := by
  intro key
  obtain ⟨addSub, subAdd, xorXor⟩ := forwardRoundTrips key
  exact ⟨addSub.congr_second (fun _ => rfl) (by simp),
    subAdd.congr_second (fun _ => rfl) (by simp),
    xorXor.congr_second (fun _ => rfl) (by simp)⟩

/-- Settles O32: `IXF.MUL` keeps the products in `DST`, and a product is the first element exactly
where multiplying did not change it. -/
theorem multiplyDoesNotRoundTrip : Obligations.MultiplyDoesNotRoundTrip := by
  intro s key key' ready
  have ready' := ready_afterCommand ready (encode (.xfMul key)) (planOf (.xfMul key) s.channels)
  have kept := fun e (he : e < s.elements) =>
    moved_identity_dst_read (j := .ixfMul key') rfl (encode (.xfMul key))
      (planOf (.xfMul key) s.channels) he
  refine ⟨_, _, _, exec_ready ready _, hostMove_ready ready',
    exec_ready (ready_afterMove ready') _, rfl, kept, forall₂_congr fun e he => ?_⟩
  calc _ ↔ some (mulMod (s.elemAt .src e) key) = some (s.elemAt .src e) := by
        rw [← afterCommand_xfMul_dst_read key he, ← kept e he]; rfl
    _ ↔ _ := by rw [Option.some_inj, mulMod_eq_self_iff]

end Sys2Proof.Machine
end

section
/-! The end of every command (60_exceptions.md): a word written to `CMD` in the atomic view runs to
`DONE` with the plan that `Resolve` gives it (R140), and the plan's signal is that of the signal table
(R145). -/

namespace Sys2Proof.Machine

open Sys2Proof

/-- A word with `RSV` = 0 is known by its `KEY` byte and the numbers of its two other fields. -/
theorem packWord_keyField {w : CmdWord} {unit sel : BitVec 2} (hrsv : rsvField w = 0)
    (hunit : (unitField w).toNat = unit.toNat) (hsel : (selField w).toNat = sel.toNat) :
    packWord (keyField w) unit sel = w := by
  rw [← BitVec.eq_of_toNat_eq hunit, ← BitVec.eq_of_toNat_eq hsel, packWord_fields w hrsv]

/-- Each arm of the decoder that gives a command fixes `RSV`, `UNIT` and `SEL`, and hands on `KEY`. -/
theorem encode_of_decode {w : CmdWord} {i : Instr} (h : decode w = .command i) : encode i = w := by
  unfold decode at h
  split at h
  · cases h
  next hrsv =>
    split at h
    all_goals cases h
    all_goals exact packWord_keyField (not_not.mp hrsv) (by assumption) (by assumption)

/-- In the atomic view every word, a reserved one included, runs with the plan `Resolve` gives it. -/
theorem writeCmd_atomic {s : State} (hv : s.view = .atomic) (w : CmdWord) :
    writeCmd w s = runCommand w (resolve w s.channels) s := by
  simp only [writeCmd, hv]
  split
  next i hd => rw [exec_eq, encode_of_decode hd, resolve_command hd]
  next why hd => rw [resolve_reserved hd]; rfl

/-- The step of a ready PXU whose host writes `w` to `CMD` in the atomic view. -/
theorem step_command {s : State} {w : CmdWord} {rest : List HostAction} (hv : s.view = .atomic)
    (ready : s.Ready) (hh : s.host = .writeReg 0 w.toNat :: rest) :
    step s = .next ((s.setHost rest).afterCommand w (resolve w s.channels)) := by
  have ready' : (s.setHost rest).Ready := ready
  rw [step_writeCmd hh ready.1, writeCmd_atomic (s := s.setHost rest) hv, runCommand_ready ready']
  rfl

/-- A command, whatever its plan, leaves no element of `DST` below `N` unwritten. -/
theorem afterCommand_dst_written {s : State} {e : Nat} (he : e < s.elements) (w : CmdWord)
    (plan : Plan) : ∃ d, (s.afterCommand w plan).dst.read e = some d :=
  ⟨_, by rw [afterCommand_dst_read, if_pos he]⟩

/-- Settles O21: a command or not, the word ends as a finished command with the plan `Resolve` gives
it. -/
theorem everyWordEndsInDone : Obligations.EveryWordEndsInDone := by
  intro s w rest hv ready hh
  have finished := afterCommand_finished (s.setHost rest) w (resolve w s.channels)
  exact ⟨_, step_command hv ready hh, finished.state, finished.cmd,
    fun _ he => afterCommand_dst_written (s := s.setHost rest) he w _⟩

/-- The signal of a swap is decided by the channel count (41_channel_permutation.md R104). -/
theorem swapPlan_signal (a b channels : Nat) :
    (swapPlan a b channels).signal =
      if 3 ≤ channels then .transformed else .unsupportedFormat := by
  split
  next enough => rw [swapPlan_enough enough]; rfl
  next tooFew => rw [swapPlan_tooFew (Nat.lt_of_not_le tooFew)]; rfl

/-- Settles O22: a command's signal is its plan's, which depends on the channel count for a swap
alone; a reserved word has the plan with `InvalidParameter`. -/
theorem signalTable : Obligations.SignalTable := by
  intro s ready
  refine ⟨fun i => ⟨_, exec_ready ready i, ?_⟩, fun w why rest hv hh hd => ?_⟩
  · rw [State.afterCommand_signal]
    cases i with
    | permRB | permRG | permGB => exact swapPlan_signal _ _ _
    | copy | xfAdd | xfSub | xfXor | xfMul | ixfAdd | ixfSub | ixfXor | ixfMul => rfl
  · refine ⟨_, step_command hv ready hh, ?_⟩
    rw [State.afterCommand_signal, resolve_reserved hd]
    rfl

end Sys2Proof.Machine
end

section
/-! The reset (70_reset_and_hazards.md R170): it clears the PXU whatever the PXU was doing, so a
running command too is abandoned. -/

namespace Sys2Proof.Machine

open Sys2Proof

/-- Both spaces are empty once the PXU is cleared. -/
@[simp] theorem State.clear_buffer (s : State) (space : Space) : s.clear.buffer space = [] := by
  cases space with
  | src => exact s.clear_src
  | dst => exact s.clear_dst

/-- The `STATUS` byte is made of `STATE` and `SIGNAL`, which clearing leaves as after reset. -/
theorem State.clear_statusByte (s : State) : s.clear.statusByte = 0 :=
  calc s.clear.statusByte = State.reset.statusByte := rfl
    _ = 0 := State.reset_statusByte

theorem State.clear_read (s : State) (space : Space) (off : Nat) :
    (s.clear.buffer space).read off = none := by
  rw [State.clear_buffer, Memory.read_nil]

/-- The reset has no condition, on `STATE` or on anything else (R178). -/
theorem step_reset {s : State} {rest : List HostAction} (h : s.host = .reset :: rest) :
    step s = .next (s.setHost rest).clear :=
  step_host h

/-- Settles O49: the step clears the PXU, and each item is a lemma about `State.clear`. -/
theorem resetClearsThePxu : Obligations.ResetClearsThePxu := by
  intro s rest h
  let u := s.setHost rest
  exact ⟨u.clear, step_reset h, u.clear_cmd, u.clear_height, u.clear_width, u.clear_channels,
    u.clear_state, u.clear_signal, u.clear_statusByte, u.clear_idxP, u.clear_read,
    u.clear_params, u.clear_host⟩

end Sys2Proof.Machine
end

section
/-! The decoder and the encoder (30_encoding.md): each is the other's inverse on the words of commands,
so a command is known by its `KEY` and its row's `match` (R65), and the words that are left are the
reserved ones (R67). -/

namespace Sys2Proof.Machine

open Sys2Proof

theorem decode_encode (i : Instr) : decode (encode i) = .command i := by
  cases i with
  | copy | permRB | permRG | permGB | xfAdd | xfSub | xfXor | xfMul | ixfAdd | ixfSub | ixfXor
  | ixfMul => simp [encode, decode]

/-- Settles O4: packing puts each field where the decoder looks for it. -/
theorem decodeOfEncode : Obligations.DecodeOfEncode := decode_encode

/-- Settles O5: a word that decodes to a command has `RSV` = 0, so its three other fields are all of
it. -/
theorem encodeOfDecode : Obligations.EncodeOfDecode := fun _ _ => encode_of_decode

theorem decode_eq_command_iff {w : CmdWord} {i : Instr} :
    decode w = .command i ↔ encode i = w :=
  ⟨encode_of_decode, fun h => h ▸ decode_encode i⟩

/-- The opcode table's row of each command (30_encoding.md R65). -/
theorem encode_and_mask (i : Instr) : encode i &&& 0x00FF = Laws.LowByte.tableMatch i := by
  cases i with
  | copy key => exact Laws.LowByte.copy key
  | permRB key => exact Laws.LowByte.permRB key
  | permRG key => exact Laws.LowByte.permRG key
  | permGB key => exact Laws.LowByte.permGB key
  | xfAdd key => exact Laws.LowByte.xfAdd key
  | xfSub key => exact Laws.LowByte.xfSub key
  | xfXor key => exact Laws.LowByte.xfXor key
  | xfMul key => exact Laws.LowByte.xfMul key
  | ixfAdd key => exact Laws.LowByte.ixfAdd key
  | ixfSub key => exact Laws.LowByte.ixfSub key
  | ixfXor key => exact Laws.LowByte.ixfXor key
  | ixfMul key => exact Laws.LowByte.ixfMul key

theorem keyField_toNat (w : CmdWord) : (keyField w).toNat = w.toNat / 256 := by
  rw [keyField, BitVec.extractLsb'_toNat, Nat.shiftRight_eq_div_pow]
  exact Nat.mod_eq_of_lt (Nat.div_lt_of_lt_mul w.isLt)

theorem and_mask_toNat (w : CmdWord) : (w &&& 0x00FF).toNat = w.toNat % 256 :=
  (BitVec.toNat_and _ _).trans (Nat.and_two_pow_sub_one_eq_mod w.toNat 8)

/-- `KEY` and what the mask 0x00FF keeps are a whole word: its quotient and its remainder by 256. -/
theorem eq_of_keyField_of_mask {w w' : CmdWord} (hkey : keyField w = keyField w')
    (hlow : w &&& 0x00FF = w' &&& 0x00FF) : w = w' := by
  have quotient := congrArg BitVec.toNat hkey
  have remainder := congrArg BitVec.toNat hlow
  rw [keyField_toNat, keyField_toNat] at quotient
  rw [and_mask_toNat, and_mask_toNat] at remainder
  apply BitVec.eq_of_toNat_eq
  omega

theorem decode_eq_command_iff_mask {w : CmdWord} {i : Instr}
    (hkey : keyField (encode i) = keyField w) :
    decode w = .command i ↔ w &&& 0x00FF = Laws.LowByte.tableMatch i := by
  rw [decode_eq_command_iff, ← encode_and_mask]
  exact ⟨fun h => h ▸ rfl, fun h => eq_of_keyField_of_mask hkey h.symm⟩

/-- Settles O2: each command's word is its row's `match` under the mask, with the command's key in the
high byte. -/
theorem decodeFollowsTheTable : Obligations.DecodeFollowsTheTable := by
  intro w
  refine ⟨?_, ?_, ?_, ?_, ?_, ?_, ?_, ?_, ?_, ?_, ?_, ?_⟩ <;>
    exact decode_eq_command_iff_mask (by simp [encode])

/-- Which fields no command has (30_encoding.md R67): with `RSV` = 0, the sixteen pairs of a `UNIT` and
a `SEL` one by one. -/
theorem decode_reserved_iff (w : CmdWord) :
    (∃ why, decode w = .reserved why) ↔
      rsvField w ≠ 0 ∨ (unitField w = 0 ∧ selField w ≠ 0) ∨ (unitField w = 1 ∧ selField w = 3) := by
  by_cases hrsv : rsvField w = 0
  · simp only [decode, hrsv]
    generalize unitField w = unit, selField w = sel
    obtain ⟨⟨u, hu⟩⟩ := unit
    obtain ⟨⟨s, hs⟩⟩ := sel
    interval_cases u <;> interval_cases s <;> simp
  · exact iff_of_true ⟨.rsvNotZero, if_pos hrsv⟩ (.inl hrsv)

/-- A field within the low byte does not see the high byte. -/
theorem extractLsb'_wordOf_low (key : Key) (w : CmdWord) {start len : Nat} (h : start + len ≤ 8) :
    (wordOf key (w.extractLsb' 0 8)).extractLsb' start len = w.extractLsb' start len := by
  ext i hi
  simp only [wordOf, BitVec.getElem_extractLsb', BitVec.getLsbD_append, BitVec.getLsbD_extractLsb']
  simp [show start + i < 8 by omega]

/-- Settles O3: `RSV`, `UNIT` and `SEL` stand in the low byte, and they alone decide. -/
theorem reservedEncodingsExactly : Obligations.ReservedEncodingsExactly := by
  intro w
  refine ⟨decode_reserved_iff w, fun key reserved => ?_⟩
  rw [decode_reserved_iff] at reserved ⊢
  rwa [rsvField, unitField, selField, extractLsb'_wordOf_low key w (by decide),
    extractLsb'_wordOf_low key w (by decide), extractLsb'_wordOf_low key w (by decide)]

/-- Settles O1: the nine words one by one. -/
theorem specWordsDecode : Obligations.SpecWordsDecode := by
  unfold Obligations.SpecWordsDecode
  decide

end Sys2Proof.Machine
end

section
/-! What the host may do (70_reset_and_hazards.md R176 to R178, 10_state.md R13 to R22): one equation
for each kind of access while no command runs, and one refusal while a command runs. -/

namespace Sys2Proof.Machine

open Sys2Proof

@[simp] theorem State.setHost_buffer (s : State) (rest : List HostAction) (space : Space) :
    (s.setHost rest).buffer space = s.buffer space := by
  cases space with
  | src => rfl
  | dst => rfl

@[simp] theorem State.setHost_pixels (s : State) (rest : List HostAction) :
    (s.setHost rest).pixels = s.pixels := rfl

@[simp] theorem State.setHost_elements (s : State) (rest : List HostAction) :
    (s.setHost rest).elements = s.elements := rfl

theorem State.setBuffer_buffer (s : State) (space space' : Space) (m : Memory) :
    (s.setBuffer space m).buffer space' = if space' = space then m else s.buffer space' := by
  cases space with
  | src => cases space' <;> rfl
  | dst => cases space' <;> rfl

theorem ifNotBusy_of_not_busy {s : State} (hb : s.state ≠ .busy)
    (o : Host.Outcome State Fault Refusal) : s.ifNotBusy o = o := if_neg hb

theorem ifNotBusy_of_busy {s : State} (hb : s.state = .busy)
    (o : Host.Outcome State Fault Refusal) : s.ifNotBusy o = .refused .accessWhileBusy := if_pos hb

theorem ifElement_inside {s : State} {off : Nat} (ho : off < s.params.maxElems) (space : Space)
    (o : Host.Outcome State Fault Refusal) : s.ifElement space off o = o := if_pos ho

theorem ifElement_outside {s : State} {off : Nat} (ho : s.params.maxElems ≤ off) (space : Space)
    (o : Host.Outcome State Fault Refusal) :
    s.ifElement space off o = .fault (.noSuchElement space off) := if_neg (Nat.not_lt.mpr ho)

theorem regOfNumber_none {n : Nat} (hn : 5 ≤ n) : regOfNumber n = none := by
  match n with
  | 0 | 1 | 2 | 3 | 4 => omega
  | _ + 5 => rfl

theorem hostReadReg_not_busy {s : State} {n : Nat} {r : Reg} (hr : regOfNumber n = some r)
    (hb : s.state ≠ .busy) : hostReadReg n s = .next (s.record (.reg n (s.regValue r))) := by
  cases r <;> simp only [hostReadReg, hr, ifNotBusy_of_not_busy hb]

theorem hostReadReg_busy {s : State} {n : Nat} (hn : n < 4) (hb : s.state = .busy) :
    hostReadReg n s = .refused .accessWhileBusy := by
  match n with
  | 0 | 1 | 2 | 3 => exact ifNotBusy_of_busy hb _

theorem hostWriteReg_not_busy {s : State} {n v : Nat} {r : Reg} (hr : regOfNumber n = some r)
    (hb : s.state ≠ .busy) (hv : v < 2 ^ Params.regWidth s.params r) :
    hostWriteReg n v s = writeRegister r v s := by
  simp only [hostWriteReg, hr, ifNotBusy_of_not_busy hb, if_pos hv]

theorem hostWriteReg_busy {s : State} {n : Nat} (hn : n < 5) (v : Nat) (hb : s.state = .busy) :
    hostWriteReg n v s = .refused .accessWhileBusy := by
  match n with
  | 0 | 1 | 2 | 3 | 4 => exact ifNotBusy_of_busy hb _

theorem hostReadElem_inside {s : State} {off : Nat} (hb : s.state ≠ .busy)
    (ho : off < s.params.maxElems) (space : Space) :
    hostReadElem space off s =
      .next (s.record (.elem space off (s.elemAt space off))).nextDraw := by
  rw [hostReadElem, ifNotBusy_of_not_busy hb, ifElement_inside ho]

theorem hostWriteElem_inside {s : State} {off : Nat} (hb : s.state ≠ .busy)
    (ho : off < s.params.maxElems) (space : Space) (v : Elem) :
    hostWriteElem space off v s = .next (s.setBuffer space ((s.buffer space).write off v)) := by
  rw [hostWriteElem, ifNotBusy_of_not_busy hb, ifElement_inside ho]

theorem hostWriteElem_outside {s : State} {off : Nat} (hb : s.state ≠ .busy)
    (ho : s.params.maxElems ≤ off) (space : Space) (v : Elem) :
    hostWriteElem space off v s = .fault (.noSuchElement space off) := by
  rw [hostWriteElem, ifNotBusy_of_not_busy hb, ifElement_outside ho]

theorem hostAct_busy {s : State} {a : HostAction} (hb : s.state = .busy)
    (ha : a.needsIdle = true) : hostAct a s = .refused .accessWhileBusy := by
  cases a with
  | readReg n => exact hostReadReg_busy (of_decide_eq_true ha) hb
  | writeReg n v => exact hostWriteReg_busy (of_decide_eq_true ha) v hb
  | readElem | writeElem | move => exact ifNotBusy_of_busy hb _
  | reset | wait | awaitDone => cases ha

/-- Settles O40: every access that needs the PXU idle asks first whether a command runs. -/
theorem noHostAccessWhileBusy : Obligations.NoHostAccessWhileBusy := by
  intro s a rest hb hh ha
  rw [step_host hh]
  exact hostAct_busy (s := s.setHost rest) hb ha

/-- Settles O46: the step is one `Memory.write` into the one space, or the fault. -/
theorem hostWritesOneElement : Obligations.HostWritesOneElement := by
  intro s space off v rest hb hh
  rw [step_host hh]
  refine ⟨fun inside => ⟨_, hostWriteElem_inside (s := s.setHost rest) hb inside space v, ?_⟩,
    fun outside => hostWriteElem_outside (s := s.setHost rest) hb outside space v⟩
  refine ⟨?_, fun space' off' other => ?_, by simp⟩
  · rw [State.setBuffer_buffer, if_pos rfl, Memory.read_write_same]
  · rw [State.setBuffer_buffer]
    split
    next same =>
      subst same
      rw [Memory.read_write_other _ _ _ _ fun h => other (by rw [h]), State.setHost_buffer]
    next => rw [State.setHost_buffer]

/-- Settles O48: `MOVE` fills `SRC` below `N` with what the reads of `DST` give. -/
theorem moveCopiesDstToSrc : Obligations.MoveCopiesDstToSrc := by
  intro s rest ready hh
  have ready' : (s.setHost rest).Ready := ready
  rw [step_host hh]
  refine ⟨_, hostMove_ready ready', rfl, fun e v he written => ?_, fun off hoff => ?_, by simp⟩
  · rw [State.afterMove_src, Memory.read_fill, if_pos (by simpa using he)]
    simp [State.elemAt, written]
  · rw [State.afterMove_src, Memory.read_fill, if_neg (by simpa using hoff)]
    rfl

theorem State.statusByte_toNat (s : State) :
    s.statusByte.toNat = 4 * s.signal.code.toNat + s.state.code.toNat := by
  rw [State.statusByte]
  cases s.signal <;> cases s.state <;> rfl

/-- A `STATUS` read asks for nothing (10_state.md R18). -/
theorem step_readStatus {s : State} {rest : List HostAction} (h : s.host = .readReg 4 :: rest) :
    step s = .next ((s.setHost rest).record (.reg 4 s.statusByte.toNat)) :=
  step_host h

/-- Settles O41: the byte that a `STATUS` read records is made of the codes of `SIGNAL` and `STATE`. -/
theorem statusReadAtAnyTime : Obligations.StatusReadAtAnyTime := by
  intro s rest hh
  rw [step_readStatus hh, State.statusByte_toNat]
  refine congrArg (fun v => Host.Outcome.next ((s.setHost rest).record (.reg 4 v))) ?_
  cases s.signal <;> cases s.state <;> rfl

/-- Settles O42: the four register numbers one by one. -/
theorem registerReadsGiveTheValue : Obligations.RegisterReadsGiveTheValue := by
  intro s n rest hb hn hh
  rw [step_host hh]
  match n with
  | 0 => exact hostReadReg_not_busy (s := s.setHost rest) (n := 0) rfl hb
  | 1 => exact hostReadReg_not_busy (s := s.setHost rest) (n := 1) rfl hb
  | 2 => exact hostReadReg_not_busy (s := s.setHost rest) (n := 2) rfl hb
  | 3 => exact hostReadReg_not_busy (s := s.setHost rest) (n := 3) rfl hb

/-- Settles O43: a value that fits its register is stored there. -/
theorem parameterRegistersStoreTheValue : Obligations.ParameterRegistersStoreTheValue := by
  intro s v rest hb
  refine ⟨fun hv hh => ?_, fun hv hh => ?_, fun hv hh => ?_⟩ <;> rw [step_host hh]
  · exact hostWriteReg_not_busy (s := s.setHost rest) (n := 1) rfl hb hv
  · exact hostWriteReg_not_busy (s := s.setHost rest) (n := 2) rfl hb hv
  · exact hostWriteReg_not_busy (s := s.setHost rest) (n := 3) rfl hb hv

/-- Settles O44: every 8-bit value fits `STATUS`, and none is stored. -/
theorem statusWriteChangesNothing : Obligations.StatusWriteChangesNothing := by
  intro s v rest hb hv hh
  rw [step_host hh]
  exact hostWriteReg_not_busy (s := s.setHost rest) (n := 4) rfl hb hv

/-- Settles O45: the register's number is looked up before anything else. -/
theorem noRegisterAboveFour : Obligations.NoRegisterAboveFour := by
  intro s n v rest hn hh
  rcases hh with hh | hh
  · rw [step_host hh]
    simp only [hostAct, hostReadReg, regOfNumber_none hn]
  · rw [step_host hh]
    simp only [hostAct, hostWriteReg, regOfNumber_none hn]

/-- Settles O47: what is recorded is `State.elemAt`. -/
theorem hostReadsOneElement : Obligations.HostReadsOneElement := by
  intro s space off rest hb ho hh
  rw [step_host hh]
  refine (hostReadElem_inside (s := s.setHost rest) hb ho space).trans
    (congrArg (fun v => Host.Outcome.next ((s.setHost rest).record (.elem space off v)).nextDraw) ?_)
  rw [State.elemAt, State.setHost_buffer]
  cases (s.buffer space).read off with
  | some | none => rfl

/-- Settles O51: with no command running, the PXU's own step and the end of waiting change nothing. -/
theorem idlePxuWaits : Obligations.IdlePxuWaits := by
  intro s
  refine ⟨fun ⟨done, hb⟩ => ?_, fun rest hb hh => ?_⟩
  · rw [step_noHost done, pxuStep_idle hb]
  · have idle : (s.setHost rest).state ≠ .busy := hb
    rcases hh with hh | hh <;> rw [step_host hh]
    · exact congrArg _ (pxuStep_idle idle)
    · exact congrArg _ (if_neg idle)

end Sys2Proof.Machine
end

section
/-! The commands from any state (60_exceptions.md R141, R144, 40_iteration_wrapper.md R88, 10_state.md
R31, 20_memory.md R51, 41_channel_permutation.md R106): what a finished command has left in `DST` as a
function of its plan, its `KEY` and the lanes of each pixel. -/

namespace Sys2Proof.Machine

open Sys2Proof

/-- Settles O19: the write of a word to `CMD` in the atomic view runs what the word decodes to. -/
theorem stepRunsTheDecodedCommand : Obligations.StepRunsTheDecodedCommand := by
  intro s w i rest hv hb hh hd
  rw [step_writeCmd hh hb, writeCmd_atomic (s := s.setHost rest) hv, resolve_command hd, exec_eq,
    encode_of_decode hd]

/-- Settles O20: `Resolve` gives a reserved word the mode `ID` whatever the channel count is. -/
theorem reservedWordIsAnIdentityPass : Obligations.ReservedWordIsAnIdentityPass := by
  intro s w why rest hv ready hh hd
  have run := step_command hv ready hh
  rw [resolve_reserved hd] at run
  obtain ⟨cmd, state, signal, idxP⟩ :=
    afterCommand_finished (s.setHost rest) w (planReserved s.channels)
  exact ⟨_, run, identityPass_of_id (s := s.setHost rest) rfl, ⟨cmd, state, signal, idxP⟩,
    afterCommand_frame (s.setHost rest) w _⟩

theorem swapPlan_id_of_signal {a b channels : Nat}
    (h : (swapPlan a b channels).signal ≠ .transformed) : (swapPlan a b channels).mode = .id := by
  rcases Nat.lt_or_ge channels 3 with few | enough
  · rw [swapPlan_tooFew few]; rfl
  · rw [swapPlan_enough enough] at h; exact absurd rfl h

/-- A plan either transforms or copies (60_exceptions.md R141). -/
theorem planOf_id_of_signal {i : Instr} {channels : Nat}
    (h : (planOf i channels).signal ≠ .transformed) : (planOf i channels).mode = .id := by
  cases i with
  | permRB | permRG | permGB => exact swapPlan_id_of_signal h
  | copy | xfAdd | xfSub | xfXor | xfMul | ixfAdd | ixfSub | ixfXor => exact absurd rfl h
  | ixfMul => rfl

/-- Settles O23: the signal of the next state is the plan's. -/
theorem failureIsAnIdentityPass : Obligations.FailureIsAnIdentityPass := by
  intro s t i run failed
  obtain ⟨-, rfl⟩ := exec_next run
  exact identityPass_of_id (planOf_id_of_signal failed)

theorem elements_eq_zero {s : State} (h : s.height = 0 ∨ s.width = 0 ∨ s.channels = 0) :
    s.elements = 0 := by
  rcases h with h | h | h <;> simp [State.elements, State.pixels, h]

/-- Settles O24: an empty buffer fits, and no offset is below `N` = 0. -/
theorem emptyBufferWritesNothing : Obligations.EmptyBufferWritesNothing := by
  intro s i hb hempty
  have empty : s.elements = 0 := elements_eq_zero hempty
  have ready : s.Ready := ⟨hb, by omega⟩
  refine ⟨_, exec_ready ready i, fun off => (afterCommand_frame s _ _).dst off (by omega), rfl, rfl,
    fun noChannels key hi => ?_⟩
  obtain ⟨a, b, hplan⟩ := planOf_perm hi
  rw [State.afterCommand_signal, hplan, swapPlan_signal, noChannels]
  rfl

theorem elemAt_of_read {s : State} {space : Space} {off : Nat} {v : Elem}
    (h : (s.buffer space).read off = some v) : s.elemAt space off = v := by
  rw [State.elemAt, h]
  rfl

/-- A command's result in a pixel, from any two states that read the same lanes there. -/
theorem laneOut_planOf_congr {s₁ s₂ : State} {i : Instr} {p c : Nat}
    (hc : s₁.channels = s₂.channels)
    (h : ∀ l, l < s₁.channels → s₁.laneIn p l = s₂.laneIn p l) (hlt : c < s₁.channels) (k : Key) :
    s₁.laneOut (planOf i s₁.channels).mode k p c = s₂.laneOut (planOf i s₂.channels).mode k p c := by
  rw [State.laneOut, State.laneOut, ← hc]
  exact pix_congr (fun _ _ => planOf_swap_lanes) k h hlt

theorem laneIn_eq_of_read {s₁ s₂ : State} {p c : Nat} (hc : s₁.channels = s₂.channels)
    (h : ∃ v, s₁.src.read (p * s₁.channels + c) = some v ∧
      s₂.src.read (p * s₁.channels + c) = some v) : s₁.laneIn p c = s₂.laneIn p c := by
  obtain ⟨v, h₁, h₂⟩ := h
  rw [State.laneIn, State.laneIn, ← hc]
  exact (elemAt_of_read (space := .src) h₁).trans (elemAt_of_read (space := .src) h₂).symm

/-- Settles O27: `Pix` of a command looks at no lane of another pixel. -/
theorem pixelsDoNotMix : Obligations.PixelsDoNotMix := by
  intro s₁ s₂ i p ready₁ ready₂ hc hp₁ hp₂ hsrc
  refine ⟨_, _, exec_ready ready₁ i, exec_ready ready₂ i, fun c hlt => ?_⟩
  have lanes := fun l hl => laneIn_eq_of_read (p := p) hc (hsrc l hl)
  calc _ = some (s₁.laneOut (planOf i s₁.channels).mode (keyField (encode i)) p c) :=
        afterCommand_dst_lane hp₁ hlt _ _
    _ = some (s₂.laneOut (planOf i s₂.channels).mode (keyField (encode i)) p c) :=
        congrArg some (laneOut_planOf_congr hc lanes hlt _)
    _ = _ := by rw [hc]; exact (afterCommand_dst_lane hp₂ (hc ▸ hlt) _ _).symm

theorem div_mod_of_lt_elements {s : State} {e : Nat} (he : e < s.elements) :
    e / s.channels < s.pixels ∧ e % s.channels < s.channels := by
  have hpos : 0 < s.channels := Nat.pos_of_mul_pos_left (Nat.zero_lt_of_lt he)
  exact ⟨(Nat.div_lt_iff_lt_mul hpos).mpr he, Nat.mod_lt _ hpos⟩

/-- Settles O26: every element below `N` is a lane of a pixel, and a pixel's result depends on that
pixel alone. -/
theorem resultDependsOnInputsOnly : Obligations.ResultDependsOnInputsOnly := by
  intro s₁ s₂ i ready₁ ready₂ hh hw hc hsrc
  have hp : s₁.pixels = s₂.pixels := by rw [State.pixels, State.pixels, hh, hw]
  refine ⟨_, _, exec_ready ready₁ i, exec_ready ready₂ i, fun e he => ?_, rfl, ?_, rfl, hp⟩
  · obtain ⟨hpix, hlane⟩ := div_mod_of_lt_elements he
    obtain ⟨t₁, t₂, run₁, run₂, agree⟩ := pixelsDoNotMix s₁ s₂ i (e / s₁.channels) ready₁ ready₂ hc
      hpix (hp ▸ hpix) fun c hlt => hsrc _ (pixelOffset_lt hpix hlt)
    obtain ⟨-, rfl⟩ := exec_next run₁
    obtain ⟨-, rfl⟩ := exec_next run₂
    simpa [Nat.div_add_mod'] using agree _ hlane
  · rw [State.afterCommand_signal, State.afterCommand_signal, hc]

theorem swap_lt {a b n c : Nat} (ha : a < n) (hb : b < n) (hc : c < n) : Equiv.swap a b c < n := by
  rw [Equiv.swap_apply_def]
  split
  · exact hb
  · split
    · exact ha
    · exact hc

/-- Exchanging two numbers below `n` only reorders the numbers below `n`. -/
theorem range_map_swap_perm {a b n : Nat} (ha : a < n) (hb : b < n) :
    ((List.range n).map (Equiv.swap a b)).Perm (List.range n) := by
  rw [List.perm_ext_iff_of_nodup (List.nodup_range.map (Equiv.injective _)) List.nodup_range]
  intro c
  simp only [List.mem_map, List.mem_range]
  exact ⟨fun ⟨x, hx, h⟩ => h ▸ swap_lt ha hb hx,
    fun hc => ⟨Equiv.swap a b c, swap_lt ha hb hc, Equiv.swap_apply_self a b c⟩⟩

theorem pix_swap_eq (a b : Nat) (k : Key) (inp : Nat → Elem) (c : Nat) :
    pix (.swap a b) k inp c = inp (Equiv.swap a b c) := by
  rw [pix, Equiv.swap_apply_def, apply_ite inp, apply_ite inp]

/-- The lanes of a pixel after the plan of a swap are its lanes before it in some order. -/
theorem pix_swapPlan_perm {a b channels : Nat} (ha : a < 3) (hb : b < 3) (k : Key)
    (inp : Nat → Elem) :
    ((List.range channels).map (pix (swapPlan a b channels).mode k inp)).Perm
      ((List.range channels).map inp) := by
  rcases Nat.lt_or_ge channels 3 with few | enough
  · rw [swapPlan_tooFew few]
    exact .refl _
  · rw [swapPlan_enough enough]
    have reordered := (range_map_swap_perm (a := a) (b := b) (n := channels) (by omega)
      (by omega)).map inp
    rw [List.map_map] at reordered
    exact (List.map_congr_left fun c _ => pix_swap_eq a b k inp c) ▸ reordered

/-- `DST` in a pixel of a finished command, as the list of its lanes. -/
theorem afterCommand_dst_pixel {s : State} {p : Nat} (hp : p < s.pixels) (w : CmdWord) (plan : Plan) :
    ((List.range s.channels).map fun c =>
        (s.afterCommand w plan).dst.read (p * s.channels + c)) =
      ((List.range s.channels).map (s.laneOut plan.mode (keyField w) p)).map some := by
  rw [List.map_map]
  exact List.map_congr_left fun c hc => afterCommand_dst_lane hp (List.mem_range.mp hc) w plan

/-- Settles O28: a swap reads each lane of the pixel once, or copies it. -/
theorem swapsKeepPixelValues : Obligations.SwapsKeepPixelValues := by
  intro s key i hi ready
  refine ⟨_, exec_ready ready i, fun p hp => ?_⟩
  rw [afterCommand_dst_pixel hp]
  have lanes : ((List.range s.channels).map
      (s.laneOut (planOf i s.channels).mode (keyField (encode i)) p)).Perm
      ((List.range s.channels).map (s.laneIn p)) := by
    rcases hi with rfl | rfl | rfl <;> exact pix_swapPlan_perm (by decide) (by decide) _ _
  have written := lanes.map some
  rwa [List.map_map (f := s.laneIn p)] at written

end Sys2Proof.Machine
end

section
/-! A running command (40_iteration_wrapper.md R84 to R87): the pixel step, the end step, the run that
is made of them, and that run against the one atomic step. -/

namespace Sys2Proof.Machine

open Sys2Proof

/-- `DST` after a pixel step: the lanes of pixel `IDX_P` are written and nothing else. -/
theorem afterPixel_dst_read (s : State) (off : Nat) :
    s.afterPixel.dst.read off =
      if s.idxP * s.channels ≤ off ∧ off < s.idxP * s.channels + s.channels then
        some (s.laneOut (resolve s.cmd s.channels).mode (keyField s.cmd) s.idxP
          (off - s.idxP * s.channels))
      else s.dst.read off := by
  rw [State.afterPixel_dst, Memory.read_fill]
  rfl

/-- Settles O36: while `IDX_P < P` the PXU's own step is the pixel step. -/
theorem pixelStep : Obligations.PixelStep := by
  intro s left hb hp waits
  refine ⟨(s.setHost left).afterPixel, ?_, rfl, hb, rfl, rfl, rfl,
    ⟨rfl, rfl, rfl, rfl, rfl, fun _ => rfl, fun _ _ => rfl, rfl, rfl⟩, fun c hc => ?_,
    fun off outside => ?_⟩
  · rw [step_hostWaits hb waits, pxuStep_pixel (s := s.setHost left) hb hp]
  · refine (afterPixel_dst_read (s.setHost left) _).trans ((if_pos ?_).trans ?_)
    · simp [hc]
    · rw [State.setHost_idxP, State.setHost_channels, Nat.add_sub_cancel_left]
      rfl
  · refine (afterPixel_dst_read (s.setHost left) off).trans (if_neg ?_)
    rw [State.setHost_idxP, State.setHost_channels]
    omega

/-- Settles O37: at `IDX_P = P` the PXU's own step is the end step. -/
theorem endStep : Obligations.EndStep := by
  intro s left hb hp waits
  refine ⟨(s.setHost left).afterEnd, ?_, rfl, rfl, rfl, rfl, rfl,
    ⟨rfl, rfl, rfl, rfl, rfl, fun _ => rfl, fun _ _ => rfl, rfl, rfl⟩, fun _ => rfl⟩
  rw [step_hostWaits hb waits, pxuStep_end (s := s.setHost left) hb hp.ge]

/-- A host that keeps waiting lets a running command take its own step. -/
theorem step_keepsWaiting {s : State} (hb : s.state = .busy) (waits : s.HostWaits s.host) :
    step s = .next (pxuStep s) :=
  step_hostWaits hb waits

theorem runSteps_add {m : Nat} {s t : State} (n : Nat) (h : runSteps m s = .next t) :
    runSteps (m + n) s = runSteps n t := by
  induction m generalizing s with
  | zero =>
    cases h
    rw [Nat.zero_add]
  | succ m ih =>
    cases hs : step s with
    | next u =>
      rw [runSteps_succ m hs] at h
      rw [Nat.succ_add, runSteps_succ (m + n) hs, ih h]
    | fault r | refused r =>
      have stopped : core.step s = _ := hs
      simp [runSteps, Host.Core.run, stopped] at h

/-- `n` pixel steps in a row. -/
def State.afterPixels (n : Nat) (s : State) : State := State.afterPixel^[n] s

/-- `n` pixel steps change `DST` and `IDX_P` and no other item. -/
theorem afterPixels_eq (n : Nat) (s : State) :
    s.afterPixels n = { s with dst := (s.afterPixels n).dst, idxP := s.idxP + n } := by
  induction n with
  | zero => rfl
  | succ n ih =>
    simp only [State.afterPixels, Function.iterate_succ_apply'] at ih ⊢
    rw [ih]
    rfl

/-- While the host keeps waiting, a running command takes one pixel in each step. -/
theorem runSteps_afterPixels {n : Nat} {s : State} (hb : s.state = .busy)
    (waits : s.HostWaits s.host) (hn : s.idxP + n ≤ s.pixels) :
    runSteps n s = .next (s.afterPixels n) := by
  induction n generalizing s with
  | zero => rfl
  | succ n ih =>
    have first : step s = .next s.afterPixel := by
      rw [step_keepsWaiting hb waits, pxuStep_pixel hb (by omega)]
    have fits : s.afterPixel.idxP + n ≤ s.afterPixel.pixels :=
      calc s.idxP + 1 + n = s.idxP + (n + 1) := by omega
        _ ≤ s.pixels := hn
    rw [runSteps_succ n first]
    exact ih hb waits fits

/-- With the pixels that are left and one step more, a running command is done. -/
theorem runSteps_to_end {s : State} (hb : s.state = .busy) (waits : s.HostWaits s.host)
    (hp : s.idxP ≤ s.pixels) :
    runSteps (s.pixels - s.idxP + 1) s = .next (s.afterPixels (s.pixels - s.idxP)).afterEnd := by
  have pixels := runSteps_afterPixels (n := s.pixels - s.idxP) hb waits (by omega)
  have last : step (s.afterPixels (s.pixels - s.idxP)) =
      .next (s.afterPixels (s.pixels - s.idxP)).afterEnd := by
    rw [afterPixels_eq]
    refine (step_keepsWaiting ?_ ?_).trans (congrArg _ (pxuStep_end ?_ ?_))
    exacts [hb, waits, hb, (Nat.add_sub_cancel' hp).ge]
  rw [runSteps_add 1 pixels, runSteps_succ 0 last, runSteps_zero]

/-- Settles O38: with no host action left the host waits, and the pixel steps count `IDX_P` up to
`P`. -/
theorem commandTakesItsPixelsAndOneStep : Obligations.CommandTakesItsPixelsAndOneStep := by
  intro s hb hp hh
  have waits : s.HostWaits s.host := .inl ⟨hh, hh⟩
  refine ⟨fun n hn => ⟨_, runSteps_afterPixels hb waits (by omega), ?_, ?_⟩,
    _, runSteps_to_end hb waits hp, rfl, ?_, ?_⟩ <;> rw [afterPixels_eq]
  · exact hb
  · exact Nat.add_sub_cancel' hp
  · rfl

/-- From the first pixel on, `n` pixel steps make the first `n` pixels of the pass. -/
theorem afterPixels_dst {s : State} (h : s.idxP = 0) (n : Nat) :
    (s.afterPixels n).dst = s.dst.writePixels s.channels
      (s.laneOut (resolve s.cmd s.channels).mode (keyField s.cmd)) n := by
  induction n with
  | zero => rfl
  | succ n ih =>
    have before := afterPixels_eq n s
    rw [ih, h, Nat.zero_add] at before
    rw [State.afterPixels, Function.iterate_succ_apply', ← State.afterPixels, before]
    rfl

/-- The whole run of a command, from its start to its end step, is the atomic command. -/
theorem afterStart_afterPixels_afterEnd (s : State) (w : CmdWord) :
    ((s.afterStart w).afterPixels s.pixels).afterEnd = s.afterCommand w (resolve w s.channels) := by
  rw [afterPixels_eq, afterPixels_dst rfl, State.afterStart_idxP, Nat.zero_add]
  rfl

/-- Settles O39: the start leaves the host waiting, and the run from there is the atomic command. -/
theorem twoViewsAgree : Obligations.TwoViewsAgree := by
  intro s w rest hv ready hh
  let u := s.setHost (.awaitDone :: rest)
  have start : step s = .next (u.afterStart w) :=
    (commandStart s w _ hv ready.1 hh).1 ready.2
  have run : runSteps (s.pixels + 1) (u.afterStart w) =
      .next (((u.afterStart w).afterPixels s.pixels).afterEnd) :=
    runSteps_to_end (s := u.afterStart w) rfl (.inr (.inr ⟨rest, rfl, rfl⟩)) (Nat.zero_le _)
  refine ⟨_, step_command (s := { s with view := .atomic }) rfl ready hh, rfl, ?_⟩
  rw [runSteps_succ (s.pixels + 1) start, run]
  refine congrArg Host.Outcome.next ((afterStart_afterPixels_afterEnd u w).trans ?_)
  rw [← hv]
  rfl

end Sys2Proof.Machine
end

section
/-! What no step but the host's own changes (10_state.md R13 to R15, R21, R26, R30): each rule is read
off the effects a host action can have and the steps of the PXU. -/

namespace Sys2Proof.Machine

open Sys2Proof

theorem State.statusByte_congr {s t : State} (hstate : t.state = s.state)
    (hsignal : t.signal = s.signal) : t.statusByte = s.statusByte := by
  rw [State.statusByte, State.statusByte, hstate, hsignal]

/-- The PXU's own step changes the `STATUS` byte only at the end of a command. -/
theorem pxuStep_statusByte (s : State) :
    (pxuStep s).statusByte = s.statusByte ∨ s.state = .busy ∧ (pxuStep s).state = .done := by
  rcases pxuStep_cases s with ⟨-, -, h⟩ | ⟨hb, -, h⟩ | ⟨-, h⟩ <;> rw [h]
  · exact .inl rfl
  · exact .inr ⟨hb, rfl⟩
  · exact .inl rfl

theorem HostEffect.src_eq {a : HostAction} {u t : State} (h : HostEffect a u t) :
    t.src = u.src ∨ a = .move ∨ a = .reset ∨ ∃ off v, a = .writeElem .src off v := by
  cases h with
  | writeElem space off v =>
    cases space with
    | src => exact .inr (.inr (.inr ⟨off, v, rfl⟩))
    | dst => exact .inl rfl
  | move => exact .inr (.inl rfl)
  | reset => exact .inr (.inr (.inl rfl))
  | readReg | command | reserved | start | writeParam | readElem | wait | stillWaiting | goesOn =>
    exact .inl (by simp)

/-- Settles O52: neither the PXU's own step nor another host action changes `SRC`. -/
theorem onlyTheHostChangesSrc : Obligations.OnlyTheHostChangesSrc := by
  intro s t run changed
  rcases step_cases run with ⟨-, rfl⟩ | ⟨a, rest, hh, effect⟩
  · exact absurd (pxuStep_src s) changed
  · exact ⟨a, rest, hh, effect.src_eq.resolve_left changed⟩

theorem HostEffect.params_eq {a : HostAction} {u t : State} (h : HostEffect a u t) :
    t.params = u.params := by
  cases h <;> simp

theorem HostEffect.view_eq {a : HostAction} {u t : State} (h : HostEffect a u t) :
    t.view = u.view := by
  cases h <;> simp

/-- Settles O55: no effect of a host action changes the parameters or the view, nor does the PXU's own
step. -/
theorem parametersNeverChange : Obligations.ParametersNeverChange := by
  intro s t run
  rcases step_cases run with ⟨-, rfl⟩ | ⟨a, rest, -, effect⟩
  · exact ⟨pxuStep_params s, pxuStep_view s⟩
  · exact ⟨effect.params_eq, effect.view_eq⟩

/-- The number of a register (10_state.md R22). -/
def Reg.number : Reg → Nat
  | .cmd => 0
  | .height => 1
  | .width => 2
  | .channels => 3
  | .status => 4

theorem eq_number_of_regOfNumber {n : Nat} {r : Reg} (h : regOfNumber n = some r) :
    n = r.number := by
  unfold regOfNumber at h
  split at h <;> cases h <;> rfl

/-- The registers that hold the image's dimensions (10_state.md R13 to R15). -/
def Reg.IsDimension (r : Reg) : Prop := r = .height ∨ r = .width ∨ r = .channels

theorem State.regValue_congr {s t : State} {r : Reg} (hr : r.IsDimension)
    (hh : t.height = s.height) (hw : t.width = s.width) (hc : t.channels = s.channels) :
    t.regValue r = s.regValue r := by
  rcases hr with rfl | rfl | rfl
  · exact hh
  · exact hw
  · exact hc

theorem State.setParam_regValue_of_ne (s : State) {r r' : Reg} (v : Nat) (hr' : r'.IsDimension)
    (h : r ≠ r') : (s.setParam r v).regValue r' = s.regValue r' := by
  rcases hr' with rfl | rfl | rfl <;> simp [State.regValue, h]

/-- Of the host's actions only the reset and the write of its own number reach a dimension
register. -/
theorem HostEffect.dimension_eq {a : HostAction} {u t : State} {r : Reg} (hr : r.IsDimension)
    (h : HostEffect a u t) :
    t.regValue r = u.regValue r ∨ a = .reset ∨ ∃ v, a = .writeReg r.number v := by
  cases h with
  | writeParam n v r' hn =>
    by_cases same : r' = r
    · subst same
      exact .inr (.inr ⟨v, by rw [eq_number_of_regOfNumber hn]⟩)
    · exact .inl (u.setParam_regValue_of_ne v hr same)
  | reset => exact .inr (.inl rfl)
  | readReg | command | reserved | start | readElem | writeElem | move | wait | stillWaiting | goesOn =>
    exact .inl (State.regValue_congr hr (by simp) (by simp) (by simp))

theorem step_dimension_eq {s t : State} {r : Reg} (hr : r.IsDimension) (run : step s = .next t)
    (changed : t.regValue r ≠ s.regValue r) :
    ∃ rest, s.host = .reset :: rest ∨ ∃ v, s.host = .writeReg r.number v :: rest := by
  rcases step_cases run with ⟨-, rfl⟩ | ⟨a, rest, hh, effect⟩
  · exact absurd (State.regValue_congr hr (by simp) (by simp) (by simp)) changed
  · have unchanged : (s.setHost rest).regValue r = s.regValue r := State.regValue_congr hr rfl rfl rfl
    rcases effect.dimension_eq hr with same | rfl | ⟨v, rfl⟩
    · exact absurd (same.trans unchanged) changed
    · exact ⟨rest, .inl hh⟩
    · exact ⟨rest, .inr ⟨v, hh⟩⟩

/-- Settles O54: the rule of a dimension register, for each of the three. -/
theorem onlyTheHostChangesDimensions : Obligations.OnlyTheHostChangesDimensions := by
  intro s t run
  exact ⟨step_dimension_eq (r := .height) (.inl rfl) run,
    step_dimension_eq (r := .width) (.inr (.inl rfl)) run,
    step_dimension_eq (r := .channels) (.inr (.inr rfl)) run⟩

/-- A host action changes the `STATUS` byte by starting a command, by the reset, or by letting a
command end. -/
theorem HostEffect.statusByte_eq {a : HostAction} {u t : State} (h : HostEffect a u t) :
    t.statusByte = u.statusByte ∨ (u.state = .busy ∧ t.state = .done) ∨
      a = .reset ∨ ∃ v, a = .writeReg 0 v := by
  cases h with
  | command v | reserved v | start v => exact .inr (.inr (.inr ⟨v, rfl⟩))
  | reset => exact .inr (.inr (.inl rfl))
  | wait => exact (pxuStep_statusByte u).imp_right .inl
  | stillWaiting => exact (pxuStep_statusByte (u.setHost (.awaitDone :: u.host))).imp_right .inl
  | readReg | writeParam | readElem | writeElem | move | goesOn =>
    exact .inl (State.statusByte_congr (by simp) (by simp))

/-- Settles O53: a step is the PXU's own or a host action's, and neither changes the byte otherwise. -/
theorem statusKeepsItsValue : Obligations.StatusKeepsItsValue := by
  intro s t run changed
  rcases step_cases run with ⟨-, rfl⟩ | ⟨a, rest, hh, effect⟩
  · exact .inl ((pxuStep_statusByte s).resolve_left changed)
  · exact (effect.statusByte_eq.resolve_left changed).imp_right fun started => ⟨a, rest, hh, started⟩

end Sys2Proof.Machine
end

section
/-! The invariant of the machine (Safety.lean): one lemma for each named update of the state, then for
the PXU's own step, for each effect of a host action, and for a step. -/

namespace Sys2Proof.Machine

open Sys2Proof

/-! ### Memories that stay inside `MAX_ELEMS` -/

theorem Memory.inside_write {m : Memory} {limit a : Nat} (v : Elem) (ha : a < limit)
    (h : ∀ off, limit ≤ off → m.read off = none) :
    ∀ off, limit ≤ off → (m.write a v).read off = none := by
  intro off hoff
  rw [Memory.read_write_other _ _ _ _ (by omega)]
  exact h off hoff

theorem Memory.inside_fill {m : Memory} {limit base n : Nat} (f : Nat → Elem)
    (hn : base + n ≤ limit) (h : ∀ off, limit ≤ off → m.read off = none) :
    ∀ off, limit ≤ off → (m.fill base f n).read off = none := by
  intro off hoff
  rw [Memory.read_fill, if_neg (by omega)]
  exact h off hoff

theorem Memory.inside_writePixels {m : Memory} {limit channels n : Nat} (out : Nat → Nat → Elem)
    (hn : n * channels ≤ limit) (h : ∀ off, limit ≤ off → m.read off = none) :
    ∀ off, limit ≤ off → (m.writePixels channels out n).read off = none := by
  intro off hoff
  rw [Memory.read_writePixels, if_neg (by omega)]
  exact h off hoff

/-! ### The named updates -/

theorem State.Inv.setHost {s : State} (h : s.Inv) (rest : List HostAction) : (s.setHost rest).Inv :=
  { h with }

theorem State.Inv.record {s : State} (h : s.Inv) (r : Reading) : (s.record r).Inv :=
  { h with }

theorem State.Inv.nextDraw {s : State} (h : s.Inv) : s.nextDraw.Inv :=
  { h with }

/-- A dimension register takes a value of its width, and only while no command runs. -/
theorem State.Inv.setParam {s : State} (h : s.Inv) {r : Reg} {v : Nat} (hb : s.state ≠ .busy)
    (hv : v < 2 ^ Params.regWidth s.params r) : (s.setParam r v).Inv := by
  cases r with
  | height => exact { h with height_lt := hv, busy_inside := fun busy => absurd busy hb }
  | width => exact { h with width_lt := hv, busy_inside := fun busy => absurd busy hb }
  | channels => exact { h with channels_lt := hv, busy_inside := fun busy => absurd busy hb }
  | cmd | status => exact h

theorem State.Inv.setBuffer_write {s : State} (h : s.Inv) {off : Nat} (space : Space) (v : Elem)
    (ho : off < s.params.maxElems) : (s.setBuffer space ((s.buffer space).write off v)).Inv := by
  cases space with
  | src =>
    exact { h with
      src_wf := Memory.wf_write off v h.src_wf
      src_inside := Memory.inside_write v ho h.src_inside }
  | dst =>
    exact { h with
      dst_wf := Memory.wf_write off v h.dst_wf
      dst_inside := Memory.inside_write v ho h.dst_inside }

theorem State.Inv.afterMove {s : State} (h : s.Inv) (fits : s.elements ≤ s.params.maxElems) :
    s.afterMove.Inv :=
  { h with
    src_wf := Memory.wf_fill 0 _ _ h.src_wf
    src_inside := Memory.inside_fill _ ((Nat.zero_add _).trans_le fits) h.src_inside }

/-- A cleared PXU has nothing started and nothing written, so only its parameters matter. -/
theorem State.clear_inv {s : State} (h : s.params.wf = true) : s.clear.Inv where
  params_wf := h
  height_lt := Nat.two_pow_pos _
  width_lt := Nat.two_pow_pos _
  channels_lt := Nat.two_pow_pos _
  idxP_lt := Nat.two_pow_pos _
  src_wf := Memory.wf_nil
  dst_wf := Memory.wf_nil
  src_inside _ _ := Memory.read_nil _
  dst_inside _ _ := Memory.read_nil _
  idle_fresh _ := ⟨rfl, rfl, rfl⟩
  busy_inside := nofun
  done_signal := nofun

/-- `P` has 2·`DIM_BITS` bits (10_state.md R24). -/
theorem State.Inv.pixels_lt {s : State} (h : s.Inv) : s.pixels < 2 ^ (2 * s.params.dimBits) := by
  rw [Nat.two_mul, Nat.pow_add]
  exact Nat.mul_lt_mul'' h.height_lt h.width_lt

theorem State.Inv.afterStart {s : State} (h : s.Inv) (w : CmdWord)
    (fits : s.elements ≤ s.params.maxElems) : (s.afterStart w).Inv :=
  { h with
    idxP_lt := Nat.two_pow_pos _
    idle_fresh := nofun
    busy_inside := fun _ => ⟨Nat.zero_le _, fits, rfl⟩
    done_signal := nofun }

/-- A finished command keeps the invariant when its signal is one its word can end with. -/
theorem State.Inv.afterCommand {s : State} (h : s.Inv) {w : CmdWord} {plan : Plan}
    (fits : s.elements ≤ s.params.maxElems) (hplan : plan = resolve w s.channels) :
    (s.afterCommand w plan).Inv :=
  { h with
    idxP_lt := h.pixels_lt
    dst_wf := Memory.wf_writePixels _ _ _ h.dst_wf
    dst_inside := Memory.inside_writePixels _ fits h.dst_inside
    idle_fresh := nofun
    busy_inside := nofun
    done_signal := fun _ => ⟨s.channels, congrArg Plan.signal hplan⟩ }

/-- A pixel of the buffer ends at or below `N`. -/
theorem pixelOffset_add_channels_le {s : State} {p : Nat} (hp : p < s.pixels) :
    pixelOffset s.channels p 0 + s.channels ≤ s.elements :=
  calc p * s.channels + 0 + s.channels = (p + 1) * s.channels := (Nat.succ_mul _ _).symm
    _ ≤ s.pixels * s.channels := Nat.mul_le_mul_right _ hp

theorem State.Inv.afterPixel {s : State} (h : s.Inv) (hb : s.state = .busy)
    (hp : s.idxP < s.pixels) : s.afterPixel.Inv := by
  obtain ⟨-, fits, fresh⟩ := h.busy_inside hb
  exact { h with
    idxP_lt := Nat.lt_of_le_of_lt hp h.pixels_lt
    dst_wf := Memory.wf_fill _ _ _ h.dst_wf
    dst_inside := Memory.inside_fill _ ((pixelOffset_add_channels_le hp).trans fits) h.dst_inside
    idle_fresh := fun idle => absurd (hb.symm.trans idle) nofun
    busy_inside := fun _ => ⟨hp, fits, fresh⟩ }

theorem State.Inv.afterEnd {s : State} (h : s.Inv) : s.afterEnd.Inv :=
  { h with
    idle_fresh := nofun
    busy_inside := nofun
    done_signal := fun _ => ⟨s.channels, rfl⟩ }

/-! ### The steps -/

theorem State.Inv.pxuStep {s : State} (h : s.Inv) : (pxuStep s).Inv := by
  rcases pxuStep_cases s with ⟨hb, hp, step⟩ | ⟨-, -, step⟩ | ⟨-, step⟩ <;> rw [step]
  · exact h.afterPixel hb hp
  · exact h.afterEnd
  · exact h

theorem HostEffect.inv {a : HostAction} {u t : State} (h : u.Inv) (effect : HostEffect a u t) :
    t.Inv := by
  cases effect with
  | readReg => exact h.record _
  | command v i _ ready =>
    exact h.afterCommand ready.2 (resolve_command (decode_encode i) u.channels).symm
  | reserved v why _ ready _ hd => exact h.afterCommand ready.2 (resolve_reserved hd u.channels).symm
  | start v _ ready => exact h.afterStart _ ready.2
  | writeParam n v r _ _ hb hv => exact h.setParam hb hv
  | readElem => exact (h.record _).nextDraw
  | writeElem space off v _ ho => exact h.setBuffer_write space v ho
  | move ready => exact h.afterMove ready.2
  | reset => exact State.clear_inv h.params_wf
  | wait => exact h.pxuStep
  | stillWaiting => exact (h.setHost _).pxuStep
  | goesOn => exact h

/-- Settles O56: a step is the PXU's own or a host action's, and both keep the invariant. -/
theorem everyStepKeepsTheInvariant : Obligations.EveryStepKeepsTheInvariant := by
  intro s t h run
  rcases step_cases run with ⟨-, rfl⟩ | ⟨a, rest, -, effect⟩
  · exact h.pxuStep
  · exact effect.inv (h.setHost rest)

/-- The widths are the spec's 16 and 8, and `MAX_ELEMS` is one more than a 40-bit number. -/
theorem Params.initial_wf : Params.initial.wf = true := by
  simp only [Params.wf, Bool.and_eq_true]
  exact ⟨⟨⟨rfl, rfl⟩, decide_eq_true (Nat.succ_pos _)⟩,
    decide_eq_true Config.capacityLessOne.isLt⟩

/-- Settles O57: `State.reset` agrees with a cleared PXU in all that the invariant speaks of. -/
theorem resetMeetsTheInvariant : Obligations.ResetMeetsTheInvariant :=
  { State.clear_inv (s := State.reset) Params.initial_wf with }

end Sys2Proof.Machine
end

section
/-! Which operations of the modular unit are one-to-one (42_modular_transform.md R118): three have an
inverse, and a product keeps as much of an element as the key is odd. -/

namespace Sys2Proof.Machine

open Sys2Proof

theorem addMod_injective (k : Key) : Function.Injective (addMod · k) :=
  Function.LeftInverse.injective (g := (subMod · k)) fun v => subMod_addMod v k

theorem subMod_injective (k : Key) : Function.Injective (subMod · k) :=
  Function.LeftInverse.injective (g := (addMod · k)) fun v => addMod_subMod v k

theorem xorKey_injective (k : Key) : Function.Injective (xorKey · k) :=
  Function.LeftInverse.injective (g := (xorKey · k)) fun v => xorKey_xorKey v k

/-- With a key `2^t·m`, `m` odd, products mod 256 see the factors mod `2^(8−t)`: the odd part cancels,
and the power of two is taken off the modulus. -/
theorem mulMod_eq_iff {key : Key} {t m : Nat} (ht : t ≤ 8) (hm : m % 2 = 1)
    (hkey : key.toNat = 2 ^ t * m) (v w : Elem) :
    mulMod v key = mulMod w key ↔ v.toNat % 2 ^ (8 - t) = w.toNat % 2 ^ (8 - t) := by
  have modulus : 256 = 2 ^ t * 2 ^ (8 - t) := by rw [← Nat.pow_add, Nat.add_sub_cancel' ht]
  have odd : Nat.gcd (2 ^ (8 - t)) m = 1 :=
    Nat.Coprime.pow_left _ ((Nat.coprime_two_left).mpr (Nat.odd_iff.mpr hm))
  have product : ∀ x : Elem, x.toNat * key.toNat = 2 ^ t * (x.toNat * m) := fun x => by
    rw [hkey, Nat.mul_left_comm]
  rw [← BitVec.toNat_inj, mulMod_toNat, mulMod_toNat, product, product, modulus]
  calc _ ↔ v.toNat * m ≡ w.toNat * m [MOD 2 ^ (8 - t)] :=
        Nat.ModEq.mul_left_cancel_iff' (Nat.two_pow_pos t).ne'
    _ ↔ _ := ⟨fun h => h.cancel_right_of_coprime odd, fun h => h.mul_right m⟩

/-- An odd key loses nothing of an element; an even one takes 128 to 0. -/
theorem mulMod_injective_iff (key : Key) :
    Function.Injective (mulMod · key) ↔ key.toNat % 2 = 1 := by
  constructor
  · intro inj
    by_contra even
    have collide : mulMod 128 key = mulMod 0 key := by
      apply BitVec.eq_of_toNat_eq
      rw [mulMod_toNat, mulMod_toNat]
      show 128 * key.toNat % 256 = 0 * key.toNat % 256
      omega
    exact absurd (inj collide) (by decide)
  · intro odd v w same
    have agree := (mulMod_eq_iff (t := 0) (Nat.zero_le 8) odd (Nat.one_mul _).symm v w).mp same
    apply BitVec.eq_of_toNat_eq
    rwa [Nat.mod_eq_of_lt v.isLt, Nat.mod_eq_of_lt w.isLt] at agree

theorem mulMod_zero (v : Elem) : mulMod v 0 = 0 := by
  rw [mulMod_eq]
  exact BitVec.mul_zero

/-- Settles O34: addition, subtraction and exclusive or have an inverse; products are compared by
`mulMod_eq_iff`. -/
theorem whichCommandsAreOneToOne : Obligations.WhichCommandsAreOneToOne :=
  ⟨fun key => ⟨addMod_injective key, subMod_injective key, xorKey_injective key,
      mulMod_injective_iff key⟩,
    fun _ _ _ _ ht hm hkey => mulMod_eq_iff (by omega) hm hkey, mulMod_zero⟩

end Sys2Proof.Machine
end

section
/-! The host's side of a command (30_encoding.md R64, R70): the key it writes for an integer, and the word
it assembles from a line. -/

namespace Sys2Proof.Machine

open Sys2Proof

theorem hostKey_toNat (k : Int) : ((hostKey k).toNat : Int) = k % 256 :=
  reduce256_toNat k

/-- Settles O59: a sum, a difference and a product mod 256 see their second operand mod 256. -/
theorem keyReductionIsHarmless : Obligations.KeyReductionIsHarmless := by
  intro v k
  refine ⟨hostKey_toNat k, ?_, ?_, ?_⟩
  · rw [addMod, reduce256_toNat, hostKey_toNat, Int.add_emod_emod]
  · rw [subMod, reduce256_toNat, hostKey_toNat, Int.sub_emod_emod]
  · rw [mulMod, reduce256_toNat, hostKey_toNat]
    exact (Int.mod_modEq k 256).mul_left v.toNat

theorem assemble_of_wf {l : CommandLine} (h : l.wf = true) :
    assemble l = some (encode (mnemonicInstr l.op (hostKey (l.key.getD 0)))) := if_pos h

theorem assemble_of_not_wf {l : CommandLine} (h : ¬ l.wf = true) : assemble l = none := if_neg h

/-- Settles O60: the word of a legal line is its command's own word. -/
theorem assembledLineDecodesToItsCommand : Obligations.AssembledLineDecodesToItsCommand := by
  intro op k
  refine ⟨fun keyed hlo hhi => ?_, fun keyed outside => ?_, fun unkeyed => ?_⟩
  · refine ⟨_, hostKey k, assemble_of_wf ?_, decode_encode _, ?_⟩
    · simp [CommandLine.wf, keyed, hlo, hhi]
    · rw [hostKey_toNat, Int.emod_eq_of_lt hlo (by omega)]
  · refine assemble_of_not_wf fun legal => ?_
    simp only [CommandLine.wf, keyed, Bool.true_and, Bool.and_eq_true, decide_eq_true_eq] at legal
    omega
  · refine ⟨_, assemble_of_wf ?_, decode_encode (mnemonicInstr op 0)⟩
    simp [CommandLine.wf, unkeyed]

end Sys2Proof.Machine
end

section
/-! Several PXUs (60_exceptions.md R156): a step of one replaces its own place in the list and reads no
other. -/

namespace Sys2Proof.Machine

open Sys2Proof

/-- A step of PXU number `n` replaces the state of that PXU by its own next state. -/
theorem stepUnit_next_iff {sys a : System} {n : Nat} :
    stepUnit sys n = .next a ↔ ∃ s t, sys[n]? = some s ∧ step s = .next t ∧ a = sys.set n t := by
  unfold stepUnit
  constructor
  · intro h
    split at h
    · cases h
    next s hs =>
      split at h
      next t ht => cases h; exact ⟨s, t, hs, ht, rfl⟩
      all_goals cases h
  · rintro ⟨s, t, hs, ht, rfl⟩
    simp only [hs, ht]

/-- Settles O58: each PXU finds its own state where it was, and the two places of the list are
replaced in either order. -/
theorem unitsShareNothing : Obligations.UnitsShareNothing := by
  intro sys a b n m hnm first second
  obtain ⟨s, t, hs, hst, rfl⟩ := stepUnit_next_iff.mp first
  obtain ⟨u, v, hu, huv, rfl⟩ := stepUnit_next_iff.mp second
  refine ⟨(sys.set n t).set m v, stepUnit_next_iff.mpr ⟨u, v, ?_, huv, rfl⟩,
    stepUnit_next_iff.mpr ⟨s, t, ?_, hst, List.set_comm t v hnm⟩, fun k hkn hkm => ?_⟩
  · rw [List.getElem?_set_ne hnm, hu]
  · rw [List.getElem?_set_ne hnm.symm, hs]
  · rw [List.getElem?_set_ne (Ne.symm hkm), List.getElem?_set_ne (Ne.symm hkn)]

end Sys2Proof.Machine
end
